-- ==== Sys2Proof/Word.lean ====
section
/-! DEFINITION. The word types of the engine, at the widths R7 and R11 of spec/00_scope.md fix.
Every value is unsigned, bit `i` has weight `2^i` and bit 0 is the least significant bit (R10). -/

namespace Sys2Proof

/-- A channel word, `CHANNEL_BITS` = 64 bits (R7, R20). -/
abbrev Channel := BitVec 64

/-- A nibble, the unit of storage, `NIBBLE_BITS` = 4 bits: a type with 16 elements (R7, R28). -/
abbrev Nibble := BitVec 4

/-- A validated index, `INDEX_BITS` = 6 bits: a type with 64 elements, so that a value outside
[0, 64) does not exist (R7, R26). DESIGN CHOICE, log 8. -/
abbrev Index := BitVec 6

/-- A raw 8-bit integer, `INDEX_BYTE_BITS` = 8 bits (R7). -/
abbrev Byte := BitVec 8

/-- A command word `CW` (R61). -/
abbrev CommandWord := BitVec 16

/-- The data value of a response (R66). -/
abbrev Data := BitVec 256

end Sys2Proof
end

