-- ==== Sys2Proof/Config.lean ====
section
/-! DEFINITION. The parameters of the engine: the constants of R7, and the two open parameters of R8
that no command reads. The third open parameter, `UNCHECKED_EXPOSED`, is a field of State (log 1). -/

namespace Sys2Proof

/-- Number of slots (R7). -/
def Config.slots : Nat := 64

/-- Number of channel words, equal to the bits of a nibble (R7). -/
def Config.channels : Nat := 4

/-- `INDEX_MIN`, the constant `MIN` of the index type (R7, R95). -/
def Config.indexMin : Index := 0#6

/-- `INDEX_MAX`, the constant `MAX` of the index type (R7, R95). -/
def Config.indexMax : Index := 63#6

/-- `INDEX_INVALID_MASK`, the two high bits of a raw byte (R7, R90). -/
def Config.indexInvalidMask : Byte := 0b11000000#8

/-- `ALL_ONES`, the 64-bit word of ones (R7). -/
def Config.allOnes : Channel := 0xFFFFFFFFFFFFFFFF#64

/-- Which of the 192 spare byte patterns denotes "no index" (R8, R27, D7): OPEN, so it has no body.
Log 10. -/
opaque Config.noneIndexChoice : Fin 192

/-- `NONE_INDEX_PATTERN`, a byte in [64, 255] (R8, R27). No command reads or writes it. -/
def Config.noneIndexPattern : Byte := BitVec.ofNat 8 (64 + Config.noneIndexChoice.val)

/-- The two byte orders a host may pick for a channel word (R8, R44). -/
inductive ByteOrder
  | little
  | big
  deriving DecidableEq, Repr, Inhabited

/-- `CHANNEL_BYTE_ORDER` (R8, R44, D15): OPEN, so it has no body. No command depends on it. Log 11. -/
opaque Config.channelByteOrder : ByteOrder

end Sys2Proof
end

