-- ==== Sys2Proof/Syntax.lean ====
section
/-! DEFINITION. The thirteen commands of R64 (spec/30_encoding.md) with the operands of their formats
(R62), and the names of the opcodes and formats. -/

namespace Sys2Proof

/-- A command with its operands. Index-typed operands are validated indices, byte operands are raw
8-bit integers, nibble operands are 4 bits (R62, R63). -/
inductive Instr
  /-- `DEFAULT`, R111. -/
  | default
  /-- `SPLAT v`, R112. -/
  | splat (v : Nibble)
  /-- `GET i`, R115. -/
  | get (idx : Index)
  /-- `SET i, v`, R116. -/
  | set (idx : Index) (v : Nibble)
  /-- `GETC b`, R117. -/
  | getc (b : Byte)
  /-- `SETC b, v`, R118. -/
  | setc (b : Byte) (v : Nibble)
  /-- `GETU b`, R119. -/
  | getu (b : Byte)
  /-- `SETU b, v`, R120. -/
  | setu (b : Byte) (v : Nibble)
  /-- `CHANS`, R121. -/
  | chans
  /-- `IDXTRY b`, R92. -/
  | idxtry (b : Byte)
  /-- `IDXU b`, R93. -/
  | idxu (b : Byte)
  /-- `IDXBYTE i`, R94. -/
  | idxbyte (idx : Index)
  /-- `IDXVALID b`, R91. -/
  | idxvalid (b : Byte)
  deriving DecidableEq, Repr

/-- The assigned opcodes of R64, one for each command. -/
inductive Opcode
  | default | splat | get | set | getc | setc | getu | setu | chans
  | idxtry | idxu | idxbyte | idxvalid
  deriving DecidableEq, Repr

/-- The six formats of R62, by the operand fields that carry a value. -/
inductive Format
  | n | v | i | iv | b | bv
  deriving DecidableEq, Repr

end Sys2Proof
end

