-- ==== Sys2Proof/WellFormed.lean ====
section
/-! DEFINITION. Which commands exist on a given block (R70, R182). The operand types of Syntax already
hold every range rule of R62 and R63, so this is the one check left. -/

namespace Sys2Proof

/-- The three unchecked commands of R70: `GETU`, `SETU`, `IDXU`. -/
def Instr.isUnchecked : Instr → Bool
  | .getu _ => true
  | .setu _ _ => true
  | .idxu _ => true
  | .default => false
  | .splat _ => false
  | .get _ => false
  | .set _ _ => false
  | .getc _ => false
  | .setc _ _ => false
  | .chans => false
  | .idxtry _ => false
  | .idxbyte _ => false
  | .idxvalid _ => false

/-- The command exists at the boundary of a block built with `UNCHECKED_EXPOSED = exposed`: the
unchecked commands exist only when it is true (R70, R182). -/
abbrev Instr.WellFormed (exposed : Bool) (instr : Instr) : Prop :=
  instr.isUnchecked = true → exposed = true

end Sys2Proof
end

