-- ==== Sys2Proof/Decode.lean ====
section
/-! DEFINITION. The decoder and the encoder of the command word (spec/30_encoding.md, R61 to R72). -/

namespace Sys2Proof

/-- The opcode field `OP` = `CW[15:12]` (R61). -/
def opField (cw : CommandWord) : BitVec 4 := cw.extractLsb' 12 4

/-- The byte operand `B` = `CW[11:4]` (R61, R63). -/
def byteField (cw : CommandWord) : Byte := cw.extractLsb' 4 8

/-- The nibble operand `V` = `CW[3:0]` (R61, R63). -/
def nibbleField (cw : CommandWord) : Nibble := cw.extractLsb' 0 4

/-- `trunc_6(B)`: the low six bits of a byte, `I6` = `CW[9:4]` of the byte field (R61, R63). -/
def truncIndex (b : Byte) : Index := b.setWidth 6

/-- The byte form `zext_8(I6)` of an index (R26, R63). -/
def indexByte (idx : Index) : Byte := idx.setWidth 8

/-- The opcode numbers of R64. -/
def Opcode.bits : Opcode → BitVec 4
  | .default => 0x1#4
  | .splat => 0x2#4
  | .get => 0x3#4
  | .set => 0x4#4
  | .getc => 0x5#4
  | .setc => 0x6#4
  | .getu => 0x7#4
  | .setu => 0x8#4
  | .chans => 0x9#4
  | .idxtry => 0xA#4
  | .idxu => 0xB#4
  | .idxbyte => 0xC#4
  | .idxvalid => 0xD#4

/-- The opcode a number stands for; 0x0, 0xE and 0xF are reserved (R64, R69 case 1). -/
def Opcode.ofBits (op : BitVec 4) : Option Opcode :=
  match op.toNat with
  | 0x1 => some .default
  | 0x2 => some .splat
  | 0x3 => some .get
  | 0x4 => some .set
  | 0x5 => some .getc
  | 0x6 => some .setc
  | 0x7 => some .getu
  | 0x8 => some .setu
  | 0x9 => some .chans
  | 0xA => some .idxtry
  | 0xB => some .idxu
  | 0xC => some .idxbyte
  | 0xD => some .idxvalid
  | _ => none

/-- The format of each opcode (R62, R64). -/
def Opcode.format : Opcode → Format
  | .default => .n
  | .splat => .v
  | .get => .i
  | .set => .iv
  | .getc => .b
  | .setc => .bv
  | .getu => .b
  | .setu => .bv
  | .chans => .n
  | .idxtry => .b
  | .idxu => .b
  | .idxbyte => .i
  | .idxvalid => .b

/-- The must-be-zero fields of a format, as a mask over the command word (R62, R69 cases 2 to 6). -/
def Format.zeroMask : Format → CommandWord
  | .n => 0x0FFF#16
  | .v => 0x0FF0#16
  | .i => 0x0C0F#16
  | .iv => 0x0C00#16
  | .b => 0x000F#16
  | .bv => 0x0000#16

/-- The three unchecked opcodes of R70. -/
def Opcode.isUnchecked : Opcode → Bool
  | .getu => true
  | .setu => true
  | .idxu => true
  | .default => false
  | .splat => false
  | .get => false
  | .set => false
  | .getc => false
  | .setc => false
  | .chans => false
  | .idxtry => false
  | .idxbyte => false
  | .idxvalid => false

/-- The command an opcode makes of its two operand fields; a format that does not use a field drops it
(R62, R63). -/
def Opcode.build (op : Opcode) (b : Byte) (v : Nibble) : Instr :=
  match op with
  | .default => .default
  | .splat => .splat v
  | .get => .get (truncIndex b)
  | .set => .set (truncIndex b) v
  | .getc => .getc b
  | .setc => .setc b v
  | .getu => .getu b
  | .setu => .setu b v
  | .chans => .chans
  | .idxtry => .idxtry b
  | .idxu => .idxu b
  | .idxbyte => .idxbyte (truncIndex b)
  | .idxvalid => .idxvalid b

/-- Why a word is illegal: the three tests of R65, in its order. The block records none of this
(R174); it only names the decoder's verdict. -/
inductive DecodeError
  /-- `OP` is 0x0, 0xE or 0xF (R69 case 1). -/
  | reservedOpcode
  /-- A must-be-zero field of the format is not zero (R69 cases 2 to 6). -/
  | fieldNotZero
  /-- An unchecked command on a block built without them (R69 case 7, R70). -/
  | uncheckedNotExposed
  deriving DecidableEq, Repr

/-- Decode: opcode, then must-be-zero fields, then `UNCHECKED_EXPOSED`; total, and illegal words are
rejected by name (R65). -/
def decode (exposed : Bool) (cw : CommandWord) : Except DecodeError Instr :=
  match Opcode.ofBits (opField cw) with
  | none => .error .reservedOpcode
  | some op =>
    if cw &&& op.format.zeroMask ≠ 0#16 then .error .fieldNotZero
    else if op.isUnchecked && !exposed then .error .uncheckedNotExposed
    else .ok (op.build (byteField cw) (nibbleField cw))

/-! ## The encoder -/

/-- The opcode of a command (R64). -/
def Instr.opcode : Instr → Opcode
  | .default => .default
  | .splat _ => .splat
  | .get _ => .get
  | .set _ _ => .set
  | .getc _ => .getc
  | .setc _ _ => .setc
  | .getu _ => .getu
  | .setu _ _ => .setu
  | .chans => .chans
  | .idxtry _ => .idxtry
  | .idxu _ => .idxu
  | .idxbyte _ => .idxbyte
  | .idxvalid _ => .idxvalid

/-- The byte field a command fills; zero where the format has none (R62). -/
def Instr.byteOperand : Instr → Byte
  | .default => 0#8
  | .splat _ => 0#8
  | .get idx => indexByte idx
  | .set idx _ => indexByte idx
  | .getc b => b
  | .setc b _ => b
  | .getu b => b
  | .setu b _ => b
  | .chans => 0#8
  | .idxtry b => b
  | .idxu b => b
  | .idxbyte idx => indexByte idx
  | .idxvalid b => b

/-- The nibble field a command fills; zero where the format has none (R62). -/
def Instr.nibbleOperand : Instr → Nibble
  | .default => 0#4
  | .splat v => v
  | .get _ => 0#4
  | .set _ v => v
  | .getc _ => 0#4
  | .setc _ v => v
  | .getu _ => 0#4
  | .setu _ v => v
  | .chans => 0#4
  | .idxtry _ => 0#4
  | .idxu _ => 0#4
  | .idxbyte _ => 0#4
  | .idxvalid _ => 0#4

/-- The command word `(OP << 12) | (B << 4) | V` (R61, R75). -/
def encode (instr : Instr) : CommandWord :=
  (instr.opcode.bits.setWidth 16 <<< 12) ||| (instr.byteOperand.setWidth 16 <<< 4)
    ||| instr.nibbleOperand.setWidth 16

/-! ## The table of R64 -/

/-- The `match` column of R64. -/
def Opcode.matchWord : Opcode → CommandWord
  | .default => 0x1000#16
  | .splat => 0x2000#16
  | .get => 0x3000#16
  | .set => 0x4000#16
  | .getc => 0x5000#16
  | .setc => 0x6000#16
  | .getu => 0x7000#16
  | .setu => 0x8000#16
  | .chans => 0x9000#16
  | .idxtry => 0xA000#16
  | .idxu => 0xB000#16
  | .idxbyte => 0xC000#16
  | .idxvalid => 0xD000#16

/-- The `mask` column of R64. -/
def Opcode.maskWord : Opcode → CommandWord
  | .default => 0xFFFF#16
  | .splat => 0xFFF0#16
  | .get => 0xFC0F#16
  | .set => 0xFC00#16
  | .getc => 0xF00F#16
  | .setc => 0xF000#16
  | .getu => 0xF00F#16
  | .setu => 0xF000#16
  | .chans => 0xFFFF#16
  | .idxtry => 0xF00F#16
  | .idxu => 0xF00F#16
  | .idxbyte => 0xFC0F#16
  | .idxvalid => 0xF00F#16

/-- The thirteen opcodes, in the order of R64. -/
def Opcode.all : List Opcode :=
  [.default, .splat, .get, .set, .getc, .setc, .getu, .setu, .chans, .idxtry, .idxu, .idxbyte, .idxvalid]

/-! ## The host's view of one table row -/

/-- The command word whose bits are `w`, of which the table gives `nbits`; the bits above are 0. -/
def wordOfTable (nbits w : Nat) : CommandWord := BitVec.ofNat 16 (w % 2 ^ nbits)

/-- What the decoder reads from an instruction whose bits are `w`, on a block with every command
(`UNCHECKED_EXPOSED` true). None where it refuses, and for a row longer than a command word. Log 15. -/
def decodeTableWord (nbits w : Nat) : Option Instr :=
  if nbits ≤ 16 then (decode true (wordOfTable nbits w)).toOption else none

end Sys2Proof
end

