-- ==== Sys2Proof/Machine/State.lean ====
section
/-! DEFINITION. The state of the machine: the four channel words the spec gives the block (R20, R35),
and beside them the build parameter and the host's two lists, which are the model's (logs 1, 2, 3). -/

namespace Sys2Proof.Machine

/-- The store `S = (CH[0], CH[1], CH[2], CH[3])`: the four channel words, 256 bits in all (R20). Every
value is legal (R22). -/
structure Store where
  /-- `CH0`: bit 0 of every slot. -/
  ch0 : Channel
  /-- `CH1`: bit 1 of every slot. -/
  ch1 : Channel
  /-- `CH2`: bit 2 of every slot. -/
  ch2 : Channel
  /-- `CH3`: bit 3 of every slot. -/
  ch3 : Channel
  deriving DecidableEq, Repr

/-- Channel word `CH[k]` (R12, R20). -/
def Store.ch (S : Store) (k : Fin 4) : Channel :=
  match k with
  | 0 => S.ch0
  | 1 => S.ch1
  | 2 => S.ch2
  | 3 => S.ch3

/-- The store whose word `k` is `word k`, all four written in one step (R46). -/
def Store.tabulate (word : Fin 4 → Channel) : Store :=
  { ch0 := word 0, ch1 := word 1, ch2 := word 2, ch3 := word 3 }

/-- The default state: all four channel words zero (R37, R111). -/
def Store.zero : Store := { ch0 := 0#64, ch1 := 0#64, ch2 := 0#64, ch3 := 0#64 }

/-- The status of a response (R67). -/
inductive Status
  /-- 0 `OK`: the command completed. -/
  | ok
  /-- 1 `INVALID_INDEX` (R171). -/
  | invalidIndex
  /-- 2 `CONVERSION_ERROR`: never the block's; the host layer's (R172). -/
  | conversionError
  /-- 3 `ILLEGAL` (R174). -/
  | illegal
  deriving DecidableEq, Repr

/-- The 2-bit code `ST` of a status (R67). -/
def Status.code : Status → BitVec 2
  | .ok => 0#2
  | .invalidIndex => 1#2
  | .conversionError => 2#2
  | .illegal => 3#2

/-- A response: a status and a 256-bit data value (R66). -/
structure Response where
  status : Status
  data : Data
  deriving DecidableEq, Repr

/-- What the host may do between commands: present one 16-bit word, or assert the reset input
(R60, R185, R200). -/
inductive HostInput
  | command (cw : CommandWord)
  | reset
  deriving DecidableEq, Repr

/-- The state: the block's four words, its build parameter, and the host's side of the interface. -/
structure State where
  /-- The four channel words, the block's whole architectural state (R20, R35). -/
  store : Store
  /-- The build parameter `UNCHECKED_EXPOSED` (R8, R70). No step changes it. Log 1. -/
  uncheckedExposed : Bool
  /-- What the host has still to send, first to be sent first (R30, R60). Log 2. -/
  input : List HostInput
  /-- The responses given so far, oldest first (R60, R203). Log 3. -/
  responses : List Response
  deriving DecidableEq, Repr

/-- The reasons a step stops. All three are the `UNDEFINED` of R175: an unchecked command with a byte
operand of 64 or more, named with its operands. Safe: the block may do anything there, and the model
says nothing after it (log 6). -/
inductive Fault
  /-- `IDXU b` with `b >= 64`, raised by `execIdxu` (R93). Safe. -/
  | idxuUndefined (b : Byte)
  /-- `GETU b` with `b >= 64`, raised by `execGetu` (R119). Safe. -/
  | getuUndefined (b : Byte)
  /-- `SETU b, v` with `b >= 64`, raised by `execSetu` (R120). Safe. -/
  | setuUndefined (b : Byte) (v : Nibble)
  deriving DecidableEq, Repr

/-- The reasons a step has no meaning for an instruction. -/
inductive Refusal
  /-- An instruction the model gives no meaning, by its mnemonic. Raised by nobody: every arm of `exec`
  is a meaning. Safe. -/
  | notModelled (mnemonic : String)
  deriving DecidableEq, Repr

/-- The machine right after reset: four zero words (R37, R200), a block built with the unchecked
commands (DESIGN CHOICE, log 1), a host that has nothing to send and has been answered nothing
(logs 2, 3). -/
def State.reset : State :=
  { store := Store.zero, uncheckedExposed := true, input := [], responses := [] }

end Sys2Proof.Machine
end

