-- ==== Sys2Proof/Machine/Operands.lean ====
section
/-! DEFINITION. How operands are tested and taken apart, and how results are laid out in `DATA`
(R63, R68, R90). The block has no flags (R31), so there is no file of flag computations. -/

namespace Sys2Proof.Machine

/-- `isValidIndex(v)`: one mask and one compare against the two high bits (R90). -/
def isValidIndex (v : Byte) : Bool := (v &&& Config.indexInvalidMask) == 0#8

/-- The precondition `B < 64` of the unchecked commands, which the host verifies and the hardware does
not test (R93, R119, R120, R185). -/
def inRange (b : Byte) : Bool := decide (b < 64#8)

/-- `b_k = (value >> k) & 1`, zero-extended to 64 bits: 0 or 1 (R42, R63). -/
def nibbleBit (v : Nibble) (k : Fin 4) : Channel := ((v >>> k.val) &&& 1#4).setWidth 64

/-- The slot number of an index as a shift amount, `zext_64(I6)` (R63). -/
def shiftOf (idx : Index) : Nat := idx.toNat

/-- The word `1 << i` (R41, R42); `i` is below 64, so the shift loses nothing (R12). -/
def slotMask (idx : Index) : Channel := 1#64 <<< shiftOf idx

/-- The 64 slot indices in order, 0 and 63 included (R40, C5). -/
def allIndices : List Index := (List.range Config.slots).map (BitVec.ofNat 6)

/-- `DATA[3:0]` = the nibble read (R68). -/
def nibbleData (v : Nibble) : Data := v.setWidth 256

/-- `DATA[7:0]` = the index as a byte, `DATA[7:6]` = 00 (R68). -/
def indexData (idx : Index) : Data := (indexByte idx).setWidth 256

/-- `DATA[0]` = 1 if true, else 0 (R68, R91). -/
def boolData (r : Bool) : Data := (BitVec.ofBool r).setWidth 256

/-- `DATA[64k+63 : 64k] = CH[k]`: channel 0 lowest (R68, R121). -/
def channelsData (S : Store) : Data := S.ch3 ++ S.ch2 ++ S.ch1 ++ S.ch0

end Sys2Proof.Machine
end

