-- ==== Sys2Proof/Machine/Ops.lean ====
section
/-! DEFINITION. The shared operations: the two slot primitives and their pure forms (R41, R42, R110,
R113), the fill (R112), answering a command (R66), raising an error (R171, R174), the reset input
(R200) and taking the next input (R60, R65). -/

namespace Sys2Proof.Machine

/-! ## The slot view and the two primitives -/

/-- The slot view of R21: bit `k` of slot `i` is bit `i` of channel `k`. -/
def slot (S : Store) (idx : Index) : Nibble :=
  BitVec.ofBool (S.ch3.getLsbD idx.toNat) ++ BitVec.ofBool (S.ch2.getLsbD idx.toNat)
    ++ BitVec.ofBool (S.ch1.getLsbD idx.toNat) ++ BitVec.ofBool (S.ch0.getLsbD idx.toNat)

/-- What channel `k` contributes to a gather: `((CH[k] & (1 << i)) >> i) << k` (R41, R110). -/
def contribution (S : Store) (idx : Index) (k : Fin 4) : Channel :=
  ((S.ch k &&& slotMask idx) >>> shiftOf idx) <<< k.val

/-- `gather(S, i)`: the 64-bit sum of the four contributions, narrowed to the byte the nibble
constructor takes and then to four bits (R110). -/
def gather (S : Store) (idx : Index) : Nibble :=
  ((contribution S idx 0 + contribution S idx 1 + contribution S idx 2
    + contribution S idx 3).setWidth 8).setWidth 4

/-- `scatter(S, i, v)`: in every word, clear bit `i` and OR in bit `k` of the nibble (R42, R113). -/
def scatter (S : Store) (idx : Index) (v : Nibble) : Store :=
  Store.tabulate fun k => (S.ch k &&& ~~~slotMask idx) ||| (nibbleBit v k <<< shiftOf idx)

/-- The store of `SPLAT v`: word `k` is the product of `ALL_ONES` and `b_k` (R112), the constant written
first so that the kernel is never led to unfold it in unary. -/
def splatStore (v : Nibble) : Store := Store.tabulate fun k => Config.allOnes * nibbleBit v k

/-- `SlotRead(i)` (R41). -/
def slotRead (idx : Index) (s : State) : Nibble := gather s.store idx

/-- `SlotWrite(i, v)` (R42). -/
def slotWrite (idx : Index) (v : Nibble) (s : State) : State :=
  { s with store := scatter s.store idx v }

/-- Writes all four channel words at once (R46, R111, R112). -/
def writeStore (S : Store) (s : State) : State := { s with store := S }

/-! ## Ending a command -/

/-- `s` with one more response given to the host (R60, R66). -/
def State.answer (s : State) (status : Status) (data : Data) : State :=
  { s with responses := s.responses ++ [{ status := status, data := data }] }

/-- `respond(status, data)`: ends the command with that response (R12, R66). -/
def respond (status : Status) (data : Data) (s : State) : Host.Outcome State Fault Refusal :=
  .next (s.answer status data)

/-- `raise InvalidIndex`: the one error entry of a command. Nothing is saved, nothing is written, no
mode changes and control goes nowhere; the error is the response, so there is nothing to return from
(R171, R179, R180). -/
def raiseInvalidIndex (s : State) : Host.Outcome State Fault Refusal := respond .invalidIndex 0#256 s

/-- `raise Illegal`: the decoder's verdict on an illegal word (R174, R179). -/
def raiseIllegal (s : State) : Host.Outcome State Fault Refusal := respond .illegal 0#256 s

/-- `UNDEFINED`: no response and no next state (R175). -/
def raiseUndefined (f : Fault) : Host.Outcome State Fault Refusal := .fault f

/-! ## The host's inputs -/

/-- The reset input: all four channel words zero, no other effect and no response (R185, R200). -/
def applyReset (s : State) : Host.Outcome State Fault Refusal := .next (writeStore Store.zero s)

/-- No input pending: nothing happens (R177, R203). DEDUCED, log 4. -/
def idle (s : State) : Host.Outcome State Fault Refusal := .next s

/-- What taking the next input gives, each with the state after it is taken. -/
inductive Fetched
  /-- The host has nothing to send. -/
  | nothing (s : State)
  /-- The reset input. -/
  | reset (s : State)
  /-- An illegal word, with the decoder's reason. -/
  | illegal (why : DecodeError) (s : State)
  /-- A command. -/
  | command (instr : Instr) (s : State)
  deriving DecidableEq, Repr

/-- `s` with `rest` left for the host to send. -/
def State.withInput (s : State) (rest : List HostInput) : State := { s with input := rest }

/-- Takes the host's next input and decodes it if it is a word (R60, R65, R178). The word is not kept
(R52). -/
def fetch (s : State) : Fetched :=
  match s.input with
  | [] => .nothing s
  | .reset :: rest => .reset (s.withInput rest)
  | .command cw :: rest =>
    match decode s.uncheckedExposed cw with
    | .error why => .illegal why (s.withInput rest)
    | .ok instr => .command instr (s.withInput rest)

/-- The state in which the host's next input is the word `cw`, before everything it has still to send
(R60). -/
def State.present (s : State) (cw : CommandWord) : State := s.withInput (.command cw :: s.input)

/-- The last response given, if any (R60). -/
def State.lastResponse (s : State) : Option Response := s.responses.getLast?

end Sys2Proof.Machine
end

