-- ==== Sys2Proof/Machine/IndexFamily.lean ====
section
/-! DEFINITION. The meanings of the validated index family (spec/40_index.md). None reads or writes the
store. -/

namespace Sys2Proof.Machine

/-- `IDXVALID b` (R91). -/
def execIdxvalid (b : Byte) (s : State) : Host.Outcome State Fault Refusal :=
  respond .ok (boolData (isValidIndex b)) s

/-- `IDXTRY b` (R92). -/
def execIdxtry (b : Byte) (s : State) : Host.Outcome State Fault Refusal :=
  if isValidIndex b then respond .ok (b.setWidth 256) s else raiseInvalidIndex s

/-- `IDXU b` (R93). -/
def execIdxu (b : Byte) (s : State) : Host.Outcome State Fault Refusal :=
  if inRange b then respond .ok (b.setWidth 256) s else raiseUndefined (.idxuUndefined b)

/-- `IDXBYTE i` (R94). -/
def execIdxbyte (idx : Index) (s : State) : Host.Outcome State Fault Refusal :=
  respond .ok (indexData idx) s

end Sys2Proof.Machine
end

