-- ==== Sys2Proof/Machine/StoreFamily.lean ====
section
/-! DEFINITION. The meanings of the raw packed store family (spec/41_store.md). -/

namespace Sys2Proof.Machine

/-- `DEFAULT` (R111). -/
def execDefault (s : State) : Host.Outcome State Fault Refusal :=
  respond .ok 0#256 (writeStore Store.zero s)

/-- `SPLAT v` (R112). -/
def execSplat (v : Nibble) (s : State) : Host.Outcome State Fault Refusal :=
  respond .ok 0#256 (writeStore (splatStore v) s)

/-- `GET i` (R115). -/
def execGet (idx : Index) (s : State) : Host.Outcome State Fault Refusal :=
  respond .ok (nibbleData (slotRead idx s)) s

/-- `SET i, v` (R116). -/
def execSet (idx : Index) (v : Nibble) (s : State) : Host.Outcome State Fault Refusal :=
  respond .ok 0#256 (slotWrite idx v s)

/-- `GETC b`: the range test comes before the access (R117). -/
def execGetc (b : Byte) (s : State) : Host.Outcome State Fault Refusal :=
  if isValidIndex b then respond .ok (nibbleData (slotRead (truncIndex b) s)) s
  else raiseInvalidIndex s

/-- `SETC b, v`: the range test comes before the access, and a failing one writes nothing (R118). -/
def execSetc (b : Byte) (v : Nibble) (s : State) : Host.Outcome State Fault Refusal :=
  if isValidIndex b then respond .ok 0#256 (slotWrite (truncIndex b) v s)
  else raiseInvalidIndex s

/-- `GETU b` (R119). -/
def execGetu (b : Byte) (s : State) : Host.Outcome State Fault Refusal :=
  if inRange b then respond .ok (nibbleData (slotRead (truncIndex b) s)) s
  else raiseUndefined (.getuUndefined b)

/-- `SETU b, v` (R120). -/
def execSetu (b : Byte) (v : Nibble) (s : State) : Host.Outcome State Fault Refusal :=
  if inRange b then respond .ok 0#256 (slotWrite (truncIndex b) v s)
  else raiseUndefined (.setuUndefined b v)

/-- `CHANS` (R121). -/
def execChans (s : State) : Host.Outcome State Fault Refusal :=
  respond .ok (channelsData s.store) s

end Sys2Proof.Machine
end

