-- ==== Sys2Proof/Machine/Dispatch.lean ====
section
/-! DEFINITION. One arm per command of R64, each one direct call of its meaning. -/

namespace Sys2Proof.Machine

def exec (i : Instr) (s : State) : Host.Outcome State Fault Refusal :=
  match i with
  | .default => Sys2Proof.Machine.execDefault s
  | .splat v => Sys2Proof.Machine.execSplat v s
  | .get idx => Sys2Proof.Machine.execGet idx s
  | .set idx v => Sys2Proof.Machine.execSet idx v s
  | .getc b => Sys2Proof.Machine.execGetc b s
  | .setc b v => Sys2Proof.Machine.execSetc b v s
  | .getu b => Sys2Proof.Machine.execGetu b s
  | .setu b v => Sys2Proof.Machine.execSetu b v s
  | .chans => Sys2Proof.Machine.execChans s
  | .idxtry b => Sys2Proof.Machine.execIdxtry b s
  | .idxu b => Sys2Proof.Machine.execIdxu b s
  | .idxbyte idx => Sys2Proof.Machine.execIdxbyte idx s
  | .idxvalid b => Sys2Proof.Machine.execIdxvalid b s

end Sys2Proof.Machine
end

