-- ==== Sys2Proof/Machine/Step.lean ====
section
/-! DEFINITION. One step: the host's next input is taken and run to its end (R46, R60). -/

namespace Sys2Proof.Machine

/-- One step of the machine. A command word is decoded and run, an illegal word is answered `ILLEGAL`
(R65, R174), a reset clears the store (R200), and with nothing pending nothing happens (R177). -/
def step (s : State) : Host.Outcome State Fault Refusal :=
  match fetch s with
  | .nothing t => idle t
  | .reset t => applyReset t
  | .illegal _ t => raiseIllegal t
  | .command instr t => exec instr t

/-- `s` with the instruction whose bits are `w` as the host's next input, before whatever the host has
still to send, so that the very next step runs it. Nothing else changes. Log 2. -/
def State.withFetchWord (s : State) (nbits w : Nat) : State := s.present (wordOfTable nbits w)

end Sys2Proof.Machine
end

