-- ==== Sys2Proof/Machine/Assembler.lean ====
section
/-! DEFINITION. The textual form of a command (R73): a mnemonic in capitals, then its operands. Text is a
list of characters. What R73 leaves open of the text is in log 12. -/

namespace Sys2Proof.Machine

/-- The mnemonics of R64. -/
def mnemonicText : Opcode → List Char
  | .default => ['D', 'E', 'F', 'A', 'U', 'L', 'T']
  | .splat => ['S', 'P', 'L', 'A', 'T']
  | .get => ['G', 'E', 'T']
  | .set => ['S', 'E', 'T']
  | .getc => ['G', 'E', 'T', 'C']
  | .setc => ['S', 'E', 'T', 'C']
  | .getu => ['G', 'E', 'T', 'U']
  | .setu => ['S', 'E', 'T', 'U']
  | .chans => ['C', 'H', 'A', 'N', 'S']
  | .idxtry => ['I', 'D', 'X', 'T', 'R', 'Y']
  | .idxu => ['I', 'D', 'X', 'U']
  | .idxbyte => ['I', 'D', 'X', 'B', 'Y', 'T', 'E']
  | .idxvalid => ['I', 'D', 'X', 'V', 'A', 'L', 'I', 'D']

/-- The opcode a mnemonic names; there are no pseudo-instructions (R73, R74). -/
def opcodeOfText (text : List Char) : Option Opcode :=
  Opcode.all.find? fun op => mnemonicText op == text

/-- A blank between words. DESIGN CHOICE, log 12. -/
def isBlank (c : Char) : Bool := c == ' ' || c == '\t'

/-- The value of a digit character, hexadecimal in either case. DESIGN CHOICE, log 12. -/
def digitValue (c : Char) : Option Nat :=
  if '0'.toNat ≤ c.toNat ∧ c.toNat ≤ '9'.toNat then some (c.toNat - '0'.toNat)
  else if 'a'.toNat ≤ c.toNat ∧ c.toNat ≤ 'f'.toNat then some (c.toNat - 'a'.toNat + 10)
  else if 'A'.toNat ≤ c.toNat ∧ c.toNat ≤ 'F'.toNat then some (c.toNat - 'A'.toNat + 10)
  else none

/-- A number in a base. An underscore stands only between two digits (R73): `afterDigit` says that the
character before was a digit, and the last character must be one. -/
def parseDigits (base acc : Nat) (afterDigit : Bool) : List Char → Option Nat
  | [] => if afterDigit then some acc else none
  | c :: rest =>
    if c = '_' then (if afterDigit then parseDigits base acc false rest else none)
    else
      match digitValue c with
      | some d => if d < base then parseDigits base (acc * base + d) true rest else none
      | none => none

/-- An operand: `MIN`, `MAX`, hexadecimal with `0x`, binary with `0b`, or decimal (R73). -/
def parseOperand : List Char → Option Nat
  | ['M', 'I', 'N'] => some Config.indexMin.toNat
  | ['M', 'A', 'X'] => some Config.indexMax.toNat
  | '0' :: 'x' :: rest => parseDigits 16 0 false rest
  | '0' :: 'b' :: rest => parseDigits 2 0 false rest
  | text => parseDigits 10 0 false text

/-- The text without blanks at either end. -/
def trimBlanks (text : List Char) : List Char :=
  ((text.dropWhile isBlank).reverse.dropWhile isBlank).reverse

/-- All operands of a list, or none if one of them is no number. -/
def parseOperands : List (List Char) → Option (List Nat)
  | [] => some []
  | text :: rest =>
    match parseOperand (trimBlanks text), parseOperands rest with
    | some n, some ns => some (n :: ns)
    | _, _ => none

/-- The command of an opcode and its operands; an operand out of its range, or a wrong number of them,
is an assembly error and not a command (R73). -/
def commandOfOperands (op : Opcode) (args : List Nat) : Option Instr :=
  match op.format, args with
  | .n, [] => some (op.build 0#8 0#4)
  | .v, [v] => if v < 16 then some (op.build 0#8 (BitVec.ofNat 4 v)) else none
  | .i, [i] => if i < 64 then some (op.build (BitVec.ofNat 8 i) 0#4) else none
  | .iv, [i, v] =>
    if i < 64 ∧ v < 16 then some (op.build (BitVec.ofNat 8 i) (BitVec.ofNat 4 v)) else none
  | .b, [b] => if b < 256 then some (op.build (BitVec.ofNat 8 b) 0#4) else none
  | .bv, [b, v] =>
    if b < 256 ∧ v < 16 then some (op.build (BitVec.ofNat 8 b) (BitVec.ofNat 4 v)) else none
  | _, _ => none

/-- The command a line of text stands for, or none for an assembly error (R73). -/
def assemble (line : List Char) : Option Instr :=
  let text := trimBlanks line
  let mnemonic := text.takeWhile fun c => !isBlank c
  let operands := trimBlanks (text.dropWhile fun c => !isBlank c)
  match opcodeOfText mnemonic,
    (if operands = [] then some [] else parseOperands (operands.splitOn ',')) with
  | some op, some args => commandOfOperands op args
  | _, _ => none

/-- A number written in decimal. -/
def decimalText (n : Nat) : List Char := Nat.toDigits 10 n

/-- The text of a command: its mnemonic, then its operands in decimal, the index or byte first and the
nibble second, separated by a comma (R73). -/
def disassemble (instr : Instr) : List Char :=
  let head := mnemonicText instr.opcode
  let byteText := decimalText instr.byteOperand.toNat
  let nibbleText := decimalText instr.nibbleOperand.toNat
  match instr.opcode.format with
  | .n => head
  | .v => head ++ [' '] ++ nibbleText
  | .i => head ++ [' '] ++ byteText
  | .iv => head ++ [' '] ++ byteText ++ [',', ' '] ++ nibbleText
  | .b => head ++ [' '] ++ byteText
  | .bv => head ++ [' '] ++ byteText ++ [',', ' '] ++ nibbleText

end Sys2Proof.Machine
end

