-- ==== Sys2Proof/Machine/HostData.lean ====
section
/-! DEFINITION. Host-side representations that no command reads or writes: the optional index of R27 and
a host's serialization of the channel words (R44). -/

namespace Sys2Proof.Machine

/-- The byte of an optional index: the index's own byte, or the one pattern for "no index" (R27). -/
def optionalIndexByte : Option Index → Byte
  | some idx => indexByte idx
  | none => Config.noneIndexPattern

/-- What a byte means as an optional index; the other 191 spare patterns have no meaning (R27, N8). -/
def readOptionalIndex (b : Byte) : Option (Option Index) :=
  if isValidIndex b then some (some (truncIndex b))
  else if b = Config.noneIndexPattern then some none
  else none

/-- The eight bytes of a channel word in a byte order, lowest byte first in the little order, highest
first in the big one. DESIGN CHOICE, log 11: R44 leaves the order to the host. -/
def channelBytes (order : ByteOrder) (w : Channel) : List Byte :=
  match order with
  | .little => (List.range 8).map fun j => w.extractLsb' (8 * j) 8
  | .big => ((List.range 8).map fun j => w.extractLsb' (8 * j) 8).reverse

/-- The 32 bytes of a store: the bytes of channel 0, then 1, 2, 3. The layout is the model's, DESIGN
CHOICE, log 11; R44 asks that the channel order and each channel's bits be kept. -/
def storeBytes (order : ByteOrder) (S : Store) : List Byte :=
  channelBytes order S.ch0 ++ channelBytes order S.ch1 ++ channelBytes order S.ch2
    ++ channelBytes order S.ch3

/-- The serialization of a host that uses the open parameter `CHANNEL_BYTE_ORDER` (R8, R44). -/
def hostBytes (S : Store) : List Byte := storeBytes Config.channelByteOrder S

end Sys2Proof.Machine
end

