-- ==== Sys2Proof/Machine/TypedView.lean ====
section
/-! DEFINITION. The typed view of spec/42_typed_view.md, a host layer with no opcode and no state of its
own: each operation is a function the host runs around commands of the block. -/

namespace Sys2Proof.Machine

/-- The codec of an element type `T` with conversion error type `E` (R150). No law ties `decode` to
`encode` (N12). -/
structure Codec (T E : Type) where
  /-- Total. -/
  encode : T → Nibble
  /-- Possibly partial. -/
  decode : Nibble → Except E T
  /-- `EMPTY`, where `T` declares one. -/
  emptyCode : Option Nibble

/-- What a view operation is indexed by: a validated index or a raw integer (R154). -/
inductive ViewIndex
  | index (idx : Index)
  | raw (b : Byte)
  deriving DecidableEq, Repr

/-- The two error kinds of the view, and no other (R159). -/
inductive ViewError (E : Type)
  | invalidIndex
  /-- The codec's own error, passed on as it is (R156, R159). -/
  | conversion (e : E)
  deriving DecidableEq, Repr

/-- The result of a view operation and the block after it. The result is `none` where the operation
does not exist on this block, which then answered `ILLEGAL` (R155, R157; log 13). -/
structure ViewReply (E A : Type) where
  result : Option (Except (ViewError E) A)
  block : State
  deriving DecidableEq, Repr

/-- The status under which the host layer reports a result (R67, R156). -/
def viewStatus {E A : Type} : Except (ViewError E) A → Status
  | .ok _ => .ok
  | .error .invalidIndex => .invalidIndex
  | .error (.conversion _) => .conversionError

/-- The host issues one command to the block, before anything else it has to send (R60, R151). -/
def issue (instr : Instr) (s : State) : Host.Outcome State Fault Refusal :=
  step (s.present (encode instr))

/-- The view's result, read off the last response; `onOk` turns the data of an `OK` into it. -/
def viewResult {E A : Type} (onOk : Data → Except (ViewError E) A) :
    Option Response → Option (Except (ViewError E) A)
  | some { status := .ok, data := d } => some (onOk d)
  | some { status := .invalidIndex, data := _ } => some (.error .invalidIndex)
  | some { status := .conversionError, data := _ } => none
  | some { status := .illegal, data := _ } => none
  | none => none

/-- One command of the block as a view operation. -/
def viewCommand {E A : Type} (onOk : Data → Except (ViewError E) A) (instr : Instr) (s : State) :
    Host.Outcome (ViewReply E A) Fault Refusal :=
  match issue instr s with
  | .next t => .next { result := viewResult onOk t.lastResponse, block := t }
  | .fault f => .fault f
  | .refused r => .refused r

/-- A successful write returns nothing (R68, R154). -/
def viewUnit {E : Type} (_ : Data) : Except (ViewError E) Unit := .ok ()

/-- A code converted by the codec, whose error is neither inspected nor wrapped further (R156). -/
def viewConvert {T E : Type} (c : Codec T E) (code : Nibble) : Except (ViewError E) T :=
  match c.decode code with
  | .ok t => .ok t
  | .error e => .error (.conversion e)

/-- The nibble of a response, `DATA[3:0]`, converted by the codec (R68, R156). -/
def viewDecode {T E : Type} (c : Codec T E) (d : Data) : Except (ViewError E) T :=
  viewConvert c (d.setWidth 4)

/-- The default creation: the command `DEFAULT` (R152). -/
def viewDefault {E : Type} (s : State) : Host.Outcome (ViewReply E Unit) Fault Refusal :=
  viewCommand viewUnit .default s

/-- `empty()`: the one command `SPLAT EMPTY`; none for a codec without `EMPTY` (R153). -/
def viewEmpty {T E : Type} (c : Codec T E) (s : State) :
    Option (Host.Outcome (ViewReply E Unit) Fault Refusal) :=
  match c.emptyCode with
  | some e => some (viewCommand viewUnit (.splat e) s)
  | none => none

/-- `write(value, index)` (R154). -/
def viewWrite {T E : Type} (c : Codec T E) (t : T) (x : ViewIndex) (s : State) :
    Host.Outcome (ViewReply E Unit) Fault Refusal :=
  match x with
  | .index idx => viewCommand viewUnit (.set idx (c.encode t)) s
  | .raw b => viewCommand viewUnit (.setc b (c.encode t)) s

/-- `writeUnchecked(value, index)` (R155). -/
def viewWriteUnchecked {T E : Type} (c : Codec T E) (t : T) (b : Byte) (s : State) :
    Host.Outcome (ViewReply E Unit) Fault Refusal :=
  viewCommand viewUnit (.setu b (c.encode t)) s

/-- `read(index)`: the index is tested before the conversion (R156, R178). -/
def viewRead {T E : Type} (c : Codec T E) (x : ViewIndex) (s : State) :
    Host.Outcome (ViewReply E T) Fault Refusal :=
  match x with
  | .index idx => viewCommand (viewDecode c) (.get idx) s
  | .raw b => viewCommand (viewDecode c) (.getc b) s

/-- `readUnchecked(index)`: unchecked in the index only, the conversion still runs (R157). -/
def viewReadUnchecked {T E : Type} (c : Codec T E) (b : Byte) (s : State) :
    Host.Outcome (ViewReply E T) Fault Refusal :=
  viewCommand (viewDecode c) (.getu b) s

/-- Reads the listed slots one after the other; an element's error does not stop the others (R158). -/
def viewReadAll {T E : Type} (c : Codec T E) :
    List Index → State →
      Host.Outcome (List (Option (Except (ViewError E) T)) × State) Fault Refusal
  | [], s => .next ([], s)
  | idx :: rest, s =>
    match viewRead c (.index idx) s with
    | .fault f => .fault f
    | .refused r => .refused r
    | .next reply =>
      match viewReadAll c rest reply.block with
      | .next (results, t) => .next (reply.result :: results, t)
      | .fault f => .fault f
      | .refused r => .refused r

/-- `toArray()` as the 64 commands `GET 0` to `GET 63` (R158). -/
def viewToArray {T E : Type} (c : Codec T E) (s : State) :
    Host.Outcome (List (Option (Except (ViewError E) T)) × State) Fault Refusal :=
  viewReadAll c allIndices s

/-- The store a `CHANS` response shows (R68, R121). -/
def storeOfData (d : Data) : Store := Store.tabulate fun k => d.extractLsb' (64 * k.val) 64

/-- `toArray()` as one `CHANS` after which the host gathers every slot itself (R158). -/
def viewToArrayByChans {T E : Type} (c : Codec T E) (s : State) :
    Host.Outcome (ViewReply E (List (Except (ViewError E) T))) Fault Refusal :=
  viewCommand
    (fun d => .ok (allIndices.map fun idx => viewConvert c (gather (storeOfData d) idx)))
    .chans s

end Sys2Proof.Machine
end

