-- ==== Sys2Proof/Safety.lean ====
section
/-! DEFINITION. The terms claims are stated in: what the host owes (R185, R204), what every response keeps
to (R66, R67), what was written last to a slot (R127), and the engine seen as a plain array of 64
nibbles (R21, R22). -/

namespace Sys2Proof.Machine

/-! ## What the host owes -/

/-- An unchecked command whose byte operand is 64 or more (R175). -/
def violatesPrecondition : Instr → Bool
  | .getu b => decide (64 ≤ b.toNat)
  | .setu b _ => decide (64 ≤ b.toNat)
  | .idxu b => decide (64 ≤ b.toNat)
  | .default => false
  | .splat _ => false
  | .get _ => false
  | .set _ _ => false
  | .getc _ => false
  | .setc _ _ => false
  | .chans => false
  | .idxtry _ => false
  | .idxbyte _ => false
  | .idxvalid _ => false

/-- The word does not make a block built with `exposed` run an unchecked command out of its
precondition (R185). -/
def SafeWord (exposed : Bool) (cw : CommandWord) : Prop :=
  ∀ instr, decode exposed cw = .ok instr → violatesPrecondition instr = false

/-- The single thing the host must do for correctness: keep the byte operand of every unchecked command
it has still to send below 64 (R204). -/
def SafeInput (s : State) : Prop :=
  ∀ cw, HostInput.command cw ∈ s.input → SafeWord s.uncheckedExposed cw

/-! ## Words -/

/-- The seven cases of R69 in which a word is illegal, each written with the bits of the word. -/
def IllegalWord (exposed : Bool) (cw : CommandWord) : Prop :=
  let op := cw.extractLsb' 12 4
  (op = 0x0#4 ∨ op = 0xE#4 ∨ op = 0xF#4)
  ∨ ((op = 0x1#4 ∨ op = 0x9#4) ∧ cw.extractLsb' 0 12 ≠ 0#12)
  ∨ (op = 0x2#4 ∧ cw.extractLsb' 4 8 ≠ 0#8)
  ∨ ((op = 0x3#4 ∨ op = 0xC#4) ∧ (cw.extractLsb' 10 2 ≠ 0#2 ∨ cw.extractLsb' 0 4 ≠ 0#4))
  ∨ (op = 0x4#4 ∧ cw.extractLsb' 10 2 ≠ 0#2)
  ∨ ((op = 0x5#4 ∨ op = 0x7#4 ∨ op = 0xA#4 ∨ op = 0xB#4 ∨ op = 0xD#4)
      ∧ cw.extractLsb' 0 4 ≠ 0#4)
  ∨ (exposed = false ∧ (op = 0x7#4 ∨ op = 0x8#4 ∨ op = 0xB#4))

/-! ## Families and frames -/

/-- The commands that write channel words: `DEFAULT`, `SPLAT` and the three forms of set (R23). -/
def writesStore : Instr → Bool
  | .default => true
  | .splat _ => true
  | .set _ _ => true
  | .setc _ _ => true
  | .setu _ _ => true
  | .get _ => false
  | .getc _ => false
  | .getu _ => false
  | .chans => false
  | .idxtry _ => false
  | .idxu _ => false
  | .idxbyte _ => false
  | .idxvalid _ => false

/-- The four commands of the validated index family (spec/40_index.md). -/
def isIndexFamily : Instr → Bool
  | .idxtry _ => true
  | .idxu _ => true
  | .idxbyte _ => true
  | .idxvalid _ => true
  | .default => false
  | .splat _ => false
  | .get _ => false
  | .set _ _ => false
  | .getc _ => false
  | .setc _ _ => false
  | .getu _ => false
  | .setu _ _ => false
  | .chans => false

/-- Everything but the store: the build parameter and the host's pending inputs are as before, and
exactly this one response was added. -/
def AnsweredOnce (s t : State) (status : Status) (data : Data) : Prop :=
  t.uncheckedExposed = s.uncheckedExposed ∧ t.input = s.input
    ∧ t.responses = s.responses ++ [{ status := status, data := data }]

/-- `t` holds `v` in slot `idx`, and every other bit of every channel word is what it was in `s`
(R42, R124). -/
def OnlySlotWritten (s t : State) (idx : Index) (v : Nibble) : Prop :=
  ∀ k : Fin 4, ∀ j : Nat, j < 64 →
    (t.store.ch k).getLsbD j
      = if j = idx.toNat then v.getLsbD k.val else (s.store.ch k).getLsbD j

/-! ## Responses -/

/-- What every response of the block keeps to: never `CONVERSION_ERROR`, and no data on an error
(R66, R67, R172). -/
def Response.Sound (r : Response) : Prop :=
  r.status ≠ .conversionError ∧ (r.status ≠ .ok → r.data = 0#256)

/-- Every response given so far is sound. -/
def ResponsesSound (s : State) : Prop := ∀ r ∈ s.responses, r.Sound

/-! ## Runs -/

/-- The run that issues all that the host has to send (R203). -/
def runAll (s : State) : Host.Outcome State Fault Refusal := Sys2Proof.core.run s.input.length s

/-- How many of the inputs are command words: each is answered once, a reset not at all (R185). -/
def commandCount : List HostInput → Nat
  | [] => 0
  | .command _ :: rest => commandCount rest + 1
  | .reset :: rest => commandCount rest

/-! ## What was written last -/

/-- What a command writes to slot `j`, if it writes it (R49, R77). -/
def writesSlot (j : Index) : Instr → Option Nibble
  | .default => some 0#4
  | .splat v => some v
  | .set idx v => if idx = j then some v else none
  | .setc b v => if b.toNat = j.toNat then some v else none
  | .setu b v => if b.toNat = j.toNat then some v else none
  | .get _ => none
  | .getc _ => none
  | .getu _ => none
  | .chans => none
  | .idxtry _ => none
  | .idxu _ => none
  | .idxbyte _ => none
  | .idxvalid _ => none

/-- What one input writes to slot `j`: a reset writes 0 everywhere, an illegal word writes nothing
(R174, R200). -/
def inputWrites (exposed : Bool) (j : Index) : HostInput → Option Nibble
  | .reset => some 0#4
  | .command cw =>
    match decode exposed cw with
    | .ok instr => writesSlot j instr
    | .error _ => none

/-- The value slot `j` holds after the inputs, from the value `before`: the last value written at that
index, independent of writes at other indices (R127). -/
def lastWritten (exposed : Bool) (j : Index) (before : Nibble) : List HostInput → Nibble
  | [] => before
  | x :: rest => lastWritten exposed j ((inputWrites exposed j x).getD before) rest

/-! ## The engine as an array of 64 nibbles -/

/-- The slot view of a whole store (R21, R34). -/
abbrev SlotArray := Index → Nibble

/-- An answer of the array machine: the array after, and the response. -/
structure ArrayReply where
  slots : SlotArray
  response : Response

/-- The index of an in-range byte. -/
def indexOfByte (b : Byte) : Index := BitVec.ofNat 6 b.toNat

/-- The `CHANS` data of an array: bit `64k + i` is bit `k` of slot `i` (R21, R68). -/
def arrayChannels (a : SlotArray) : Data :=
  BitVec.ofFnLE fun n : Fin 256 => (a (BitVec.ofNat 6 (n.val % 64))).getLsbD (n.val / 64)

/-- The thirteen commands on an array of 64 nibbles, with plain reads and writes and plain comparisons
in place of shifts and masks; none where the command is `UNDEFINED`. -/
def arrayExec (instr : Instr) (a : SlotArray) : Option ArrayReply :=
  match instr with
  | .default => some { slots := fun _ => 0#4, response := { status := .ok, data := 0#256 } }
  | .splat v => some { slots := fun _ => v, response := { status := .ok, data := 0#256 } }
  | .get idx => some { slots := a, response := { status := .ok, data := (a idx).setWidth 256 } }
  | .set idx v =>
    some { slots := fun j => if j = idx then v else a j, response := { status := .ok, data := 0#256 } }
  | .getc b =>
    if b.toNat < 64 then
      some { slots := a, response := { status := .ok, data := (a (indexOfByte b)).setWidth 256 } }
    else some { slots := a, response := { status := .invalidIndex, data := 0#256 } }
  | .setc b v =>
    if b.toNat < 64 then
      some { slots := fun j => if j = indexOfByte b then v else a j,
             response := { status := .ok, data := 0#256 } }
    else some { slots := a, response := { status := .invalidIndex, data := 0#256 } }
  | .getu b =>
    if b.toNat < 64 then
      some { slots := a, response := { status := .ok, data := (a (indexOfByte b)).setWidth 256 } }
    else none
  | .setu b v =>
    if b.toNat < 64 then
      some { slots := fun j => if j = indexOfByte b then v else a j,
             response := { status := .ok, data := 0#256 } }
    else none
  | .chans => some { slots := a, response := { status := .ok, data := arrayChannels a } }
  | .idxtry b =>
    if b.toNat < 64 then
      some { slots := a, response := { status := .ok, data := BitVec.ofNat 256 b.toNat } }
    else some { slots := a, response := { status := .invalidIndex, data := 0#256 } }
  | .idxu b =>
    if b.toNat < 64 then
      some { slots := a, response := { status := .ok, data := BitVec.ofNat 256 b.toNat } }
    else none
  | .idxbyte idx =>
    some { slots := a, response := { status := .ok, data := BitVec.ofNat 256 idx.toNat } }
  | .idxvalid b =>
    some { slots := a,
           response := { status := .ok, data := if b.toNat < 64 then 1#256 else 0#256 } }

end Sys2Proof.Machine
end

