-- ==== Sys2Proof/Certificates/Slice0/Obligations.lean ====
section
/-! DEFINITION. The statements for the provers, from the numbered rules of spec/. Each docstring names the
rule a statement formalises, or the log entry where it rests on a choice of the model's. How the state
writes things down is the model's form throughout: the build parameter as a field (log 1), the inputs and
the responses as lists (logs 2, 3), a fault that carries the command's operands beside its name (log 6).
What they hold is the cited rule's. -/

open Sys2Proof Sys2Proof.Machine

/-! ## The command word -/

/-- Decoding the word of a command that exists on the block gives that command back (R61 to R65). -/
def Obligations.DecodeOfEncode : Prop :=
  ∀ (exposed : Bool) (i : Instr), i.WellFormed exposed → decode exposed (encode i) = .ok i

/-- Every legal word is the word of the command it decodes to, which exists on the block: no two words
are one command (R62, R65, R69, R70). -/
def Obligations.EncodeOfDecode : Prop :=
  ∀ (exposed : Bool) (w : CommandWord) (i : Instr),
    decode exposed w = .ok i → encode i = w ∧ i.WellFormed exposed

/-- A word is a command exactly when it matches that command's row of the table, and the command exists
on the block (R64, R70). -/
def Obligations.WordIsCommandExactlyWhenItMatches : Prop :=
  ∀ (exposed : Bool) (op : Opcode) (w : CommandWord),
    (∃ i, decode exposed w = .ok i ∧ i.opcode = op)
      ↔ (w &&& op.maskWord = op.matchWord ∧ (op.isUnchecked = true → exposed = true))

/-- The thirteen rows are pairwise disjoint (R65). -/
def Obligations.TableRowsDisjoint : Prop :=
  ∀ (op op' : Opcode) (w : CommandWord),
    w &&& op.maskWord = op.matchWord → w &&& op'.maskWord = op'.matchWord → op = op'

/-- The fourteen encoding examples: each text assembles to a command whose word is the one listed, and
that word decodes to the command (R75). -/
def Obligations.EncodingExamples : Prop :=
  ∀ row ∈ ([("DEFAULT", 0x1000#16), ("SPLAT 0xA", 0x200A#16), ("GET 5", 0x3050#16),
      ("SET 5, 0b1101", 0x405D#16), ("SET 63, 0b0111", 0x43F7#16), ("GETC 64", 0x5400#16),
      ("SETC 200, 3", 0x6C83#16), ("GETU 63", 0x73F0#16), ("SETU 0, 15", 0x800F#16),
      ("CHANS", 0x9000#16), ("IDXTRY 64", 0xA400#16), ("IDXU 63", 0xB3F0#16),
      ("IDXBYTE 63", 0xC3F0#16), ("IDXVALID 255", 0xDFF0#16)] : List (String × CommandWord)),
    (assemble row.1.toList).map encode = some row.2
      ∧ (decode true row.2).toOption = assemble row.1.toList

/-- A word is illegal in the seven cases of R69 and in no other; it writes nothing and is answered
`ILLEGAL` with no data, and the host goes on with the rest (R69, R174). -/
def Obligations.IllegalWordsAreExactlyTheSevenCases : Prop :=
  (∀ (exposed : Bool) (w : CommandWord),
    (∃ e, decode exposed w = .error e) ↔ IllegalWord exposed w)
  ∧ ∀ (s : State) (w : CommandWord) (rest : List HostInput),
      s.input = .command w :: rest → IllegalWord s.uncheckedExposed w →
        step s = .next ((s.withInput rest).answer .illegal 0#256)

/-- Writing a command as text and assembling the text gives the command back (R73). -/
def Obligations.AssembleOfDisassemble : Prop :=
  ∀ i : Instr, assemble (disassemble i) = some i

/-! ## One step -/

/-- When the host's next word decodes to a command, the step is that command's meaning, with the word
taken off what the host has still to send. -/
def Obligations.StepRunsDecodedCommand : Prop :=
  ∀ (s : State) (w : CommandWord) (rest : List HostInput) (i : Instr),
    s.input = .command w :: rest → decode s.uncheckedExposed w = .ok i →
      step s = exec i (s.withInput rest)

/-- A word that the decoder reads as a command, placed where the next step fetches, runs at once on a
block built with every command, with everything else as it was (log 2, log 15). -/
def Obligations.PlacedWordRunsAtOnce : Prop :=
  ∀ (s : State) (w : Nat) (i : Instr), s.uncheckedExposed = true →
    decodeTableWord 16 w = some i → step (s.withFetchWord 16 w) = exec i s

/-- The reset input makes all four channel words zero and has no other effect; it is answered by
nothing, and what it leaves in the store does not depend on the store before (R185, R200). -/
def Obligations.ResetInputClearsStore : Prop :=
  ∀ (s : State) (rest : List HostInput), s.input = .reset :: rest →
    ∃ t, step s = .next t ∧ (∀ k, t.store.ch k = 0#64) ∧ t.input = rest
      ∧ t.responses = s.responses ∧ t.uncheckedExposed = s.uncheckedExposed

/-- With nothing pending, a step changes nothing. The model's choice, log 4 (from R177 and R203). -/
def Obligations.IdleStepChangesNothing : Prop :=
  ∀ s : State, s.input = [] → step s = .next s

/-- A command ends in exactly one of four ways: completed; `INVALID_INDEX` or `ILLEGAL`, with the store
as it was and no data; or `UNDEFINED`, a fault with no next state. Status `CONVERSION_ERROR` is never
produced (R170). -/
def Obligations.CommandEndsInOneOfFourWays : Prop :=
  ∀ (s : State) (w : CommandWord) (rest : List HostInput), s.input = .command w :: rest →
    (∃ f, step s = .fault f)
    ∨ ∃ t status data, step s = .next t ∧ AnsweredOnce (s.withInput rest) t status data
        ∧ (status = .ok
          ∨ ((status = .invalidIndex ∨ status = .illegal) ∧ t.store = s.store ∧ data = 0#256))

/-- A step faults exactly when an unchecked command is issued with a byte operand of 64 or more, the
fault names the command with its operands, and no later step of the run has a meaning (R175). -/
def Obligations.FaultExactlyOnUncheckedOutOfRange : Prop :=
  (∀ (s : State) (f : Fault), step s = .fault f ↔
    ∃ (w : CommandWord) (rest : List HostInput) (b : Byte),
      s.input = .command w :: rest ∧ 64 ≤ b.toNat
        ∧ ((decode s.uncheckedExposed w = .ok (.idxu b) ∧ f = .idxuUndefined b)
          ∨ (decode s.uncheckedExposed w = .ok (.getu b) ∧ f = .getuUndefined b)
          ∨ ∃ v, decode s.uncheckedExposed w = .ok (.setu b v) ∧ f = .setuUndefined b v))
  ∧ ∀ (s : State) (f : Fault) (n : Nat), step s = .fault f →
      Sys2Proof.core.run (n + 1) s = .fault f

/-- No step is refused: every command of the table has its meaning. -/
def Obligations.StepNeverRefuses : Prop :=
  ∀ (s : State) (r : Refusal), step s ≠ .refused r

/-- Every step keeps the responses sound, whatever the state: no response is `CONVERSION_ERROR` and no
error carries data (R66, R67, R172). -/
def Obligations.StepKeepsResponsesSound : Prop :=
  ∀ s t : State, ResponsesSound s → step s = .next t → ResponsesSound t

/-- The responses are sound at reset: there are none (log 3). -/
def Obligations.ResetResponsesSound : Prop :=
  ResponsesSound State.reset

/-- No step changes the build parameter, and a step takes at most the next input and gives at most one
response (R60, R182). -/
def Obligations.StepKeepsBuildAndAnswersAtMostOnce : Prop :=
  ∀ s t : State, step s = .next t →
    t.uncheckedExposed = s.uncheckedExposed ∧ t.input = s.input.tail
      ∧ (t.responses = s.responses ∨ ∃ r, t.responses = s.responses ++ [r])

/-- A host that keeps every unchecked byte below 64 runs all it has to send: no fault, every word
answered exactly once, no reset answered, nothing left (R185, R203, R204). -/
def Obligations.SafeInputRunsToTheEnd : Prop :=
  ∀ s : State, SafeInput s →
    ∃ t, runAll s = .next t ∧ t.input = []
      ∧ t.responses.length = s.responses.length + commandCount s.input

/-- A command that does not write channel words leaves the store, the build parameter and the pending
inputs as they were and adds one response (R23, R46). -/
def Obligations.ReadingCommandsLeaveTheStore : Prop :=
  ∀ (i : Instr) (s t : State), writesStore i = false → exec i s = .next t →
    t.store = s.store ∧ ∃ status data, AnsweredOnce s t status data

/-! ## The validated index family -/

/-- The mask test agrees with the comparison over all 256 bytes (R96). -/
def Obligations.ValidityMaskAgreesWithComparison : Prop :=
  ∀ v : Byte, isValidIndex v = true ↔ v.toNat < 64

/-- `IDXVALID b` answers 1 if `b < 64` and 0 otherwise, always `OK`, and changes nothing else (R91). -/
def Obligations.IdxvalidAnswersWhetherInRange : Prop :=
  ∀ (b : Byte) (s : State),
    encode (.idxvalid b) = 0xD000#16 ||| (b.setWidth 16 <<< 4)
    ∧ exec (.idxvalid b) s = .next (s.answer .ok (if b.toNat < 64 then 1#256 else 0#256))

/-- `IDXTRY b` answers `b` as an index if `b < 64` and `INVALID_INDEX` with no data exactly otherwise;
neither changes anything else (R92). -/
def Obligations.IdxtryChecksItsByte : Prop :=
  ∀ (b : Byte) (s : State),
    encode (.idxtry b) = 0xA000#16 ||| (b.setWidth 16 <<< 4)
    ∧ (b.toNat < 64 → exec (.idxtry b) s = .next (s.answer .ok (BitVec.ofNat 256 b.toNat)))
    ∧ (64 ≤ b.toNat → exec (.idxtry b) s = .next (s.answer .invalidIndex 0#256))

/-- `IDXU b` answers as `IDXTRY b` if `b < 64`, faults otherwise, and its word is legal only on a block
built with the unchecked commands (R93). -/
def Obligations.IdxuTrustsItsByte : Prop :=
  ∀ (b : Byte) (s : State),
    encode (.idxu b) = 0xB000#16 ||| (b.setWidth 16 <<< 4)
    ∧ decode true (encode (.idxu b)) = .ok (.idxu b)
    ∧ (∃ e, decode false (encode (.idxu b)) = .error e)
    ∧ (b.toNat < 64 → exec (.idxu b) s = .next (s.answer .ok (BitVec.ofNat 256 b.toNat))
        ∧ exec (.idxu b) s = exec (.idxtry b) s)
    ∧ (64 ≤ b.toNat → exec (.idxu b) s = .fault (.idxuUndefined b))

/-- `IDXBYTE i` answers the index as a byte, losing nothing, always `OK`, and changes nothing else
(R94). -/
def Obligations.IdxbyteAnswersItsIndex : Prop :=
  ∀ (idx : Index) (s : State),
    encode (.idxbyte idx) = 0xC000#16 ||| (idx.setWidth 16 <<< 4)
    ∧ exec (.idxbyte idx) s = .next (s.answer .ok (BitVec.ofNat 256 idx.toNat))

/-- `toByte` and the successful branch of `tryFromByte` are inverse to each other (R97). -/
def Obligations.IdxtryAndIdxbyteAreInverse : Prop :=
  (∀ (v : Byte) (s : State), v.toNat < 64 →
    ∃ x : Index, indexByte x = v
      ∧ exec (.idxtry v) s = .next (s.answer .ok (BitVec.ofNat 256 x.toNat))
      ∧ exec (.idxbyte x) s = .next (s.answer .ok (BitVec.ofNat 256 v.toNat)))
  ∧ ∀ (x : Index) (s : State),
      (indexByte x).toNat < 64 ∧ truncIndex (indexByte x) = x
      ∧ exec (.idxtry (indexByte x)) s = .next (s.answer .ok (BitVec.ofNat 256 x.toNat))

/-- Of the index family only `IDXTRY` can answer an error; `IDXVALID` and `IDXBYTE` always answer `OK`;
`IDXU` answers `OK` or is undefined (R99). -/
def Obligations.OnlyIdxtryOfItsFamilyFails : Prop :=
  ∀ (i : Instr) (s : State), isIndexFamily i = true →
    (∃ data, exec i s = .next (s.answer .ok data))
    ∨ (∃ b, i = .idxtry b ∧ exec i s = .next (s.answer .invalidIndex 0#256))
    ∨ (∃ b, i = .idxu b ∧ exec i s = .fault (.idxuUndefined b))

/-- Every index a command of the family answers is in [0, 64), and is answered with bits 7 and 6 zero
(R98). -/
def Obligations.AnsweredIndicesAreInRange : Prop :=
  ∀ (i : Instr) (s t : State) (data : Data), isIndexFamily i = true → exec i s = .next t →
    t.lastResponse = some { status := .ok, data := data } → data.toNat < 64

/-- What the index family does, it does whatever the store holds, and it leaves the store as it was
(R23). -/
def Obligations.IndexFamilyIgnoresTheStore : Prop :=
  ∀ (i : Instr) (s : State) (S : Store), isIndexFamily i = true →
    (∀ t, exec i s = .next t → t.store = s.store
      ∧ exec i (writeStore S s) = .next (writeStore S t))
    ∧ ∀ f, exec i s = .fault f → exec i (writeStore S s) = .fault f

/-! ## The slot view and the two primitives -/

/-- The value of slot `i` is the number whose bit `k` is bit `i` of channel `k`, and `SlotRead` gathers
exactly it (R21, R41). -/
def Obligations.SlotReadIsTheSlotView : Prop :=
  ∀ (s : State) (idx : Index),
    slotRead idx s = slot s.store idx
    ∧ (∀ k : Fin 4, (slot s.store idx).getLsbD k.val = (s.store.ch k).getLsbD idx.toNat)
    ∧ (slot s.store idx).toNat
        = (s.store.ch0.getLsbD idx.toNat).toNat + 2 * (s.store.ch1.getLsbD idx.toNat).toNat
          + 4 * (s.store.ch2.getLsbD idx.toNat).toNat + 8 * (s.store.ch3.getLsbD idx.toNat).toNat

/-- Every assignment of 64 nibbles is the slot view of exactly one store (R21, R22, R25). -/
def Obligations.SlotViewIsABijection : Prop :=
  ∀ values : Index → Nibble, ∃! S : Store, ∀ idx, slot S idx = values idx

/-- The bit map every other law rests on (R124). -/
def Obligations.BitMapOfGatherAndScatter : Prop :=
  ∀ (S : Store) (idx : Index) (k : Fin 4),
    (gather S idx).getLsbD k.val = (S.ch k).getLsbD idx.toNat
    ∧ ∀ v : Nibble,
        ((scatter S idx v).ch k).getLsbD idx.toNat = v.getLsbD k.val
        ∧ ∀ j : Index, j ≠ idx →
            ((scatter S idx v).ch k).getLsbD j.toNat = (S.ch k).getLsbD j.toNat

/-- In a gather each contribution is 0 or `2^k`, the sum is their OR, and it is at most 15 (R131). -/
def Obligations.GatherSumIsOr : Prop :=
  ∀ (S : Store) (idx : Index),
    (∀ k : Fin 4, contribution S idx k = 0#64 ∨ contribution S idx k = 1#64 <<< k.val)
    ∧ contribution S idx 0 + contribution S idx 1 + contribution S idx 2 + contribution S idx 3
        = (contribution S idx 0 ||| contribution S idx 1 ||| contribution S idx 2
          ||| contribution S idx 3)
    ∧ (contribution S idx 0 + contribution S idx 1 + contribution S idx 2
        + contribution S idx 3).toNat ≤ 15

/-- Overwriting, idempotence, commuting, writing back, and filling as 64 writes (R130). -/
def Obligations.AlgebraOfWrites : Prop :=
  (∀ (S : Store) (i : Index) (v w : Nibble),
    scatter (scatter S i v) i w = scatter S i w
    ∧ scatter (scatter S i v) i v = scatter S i v
    ∧ scatter S i (gather S i) = S)
  ∧ (∀ (S : Store) (i j : Index) (v w : Nibble), i ≠ j →
      scatter (scatter S i v) j w = scatter (scatter S j w) i v)
  ∧ ∀ v : Nibble, allIndices.foldl (fun S i => scatter S i v) Store.zero = splatStore v

/-- The four writes of the source's scenario give its four channel words (R132). -/
def Obligations.ConcreteScenario : Prop :=
  scatter (scatter (scatter (scatter Store.zero 0#6 0b1111#4) 5#6 0b1101#4) 32#6 0b1111#4) 63#6
      0b0111#4
    = { ch0 := 0x8000000100000021#64, ch1 := 0x8000000100000001#64,
        ch2 := 0x8000000100000021#64, ch3 := 0x0000000100000021#64 }

/-! ## The raw packed store family -/

/-- `DEFAULT` makes all four words zero, so that every slot reads 0, and answers `OK` with no data; the
state before does not matter to the store after (R111). -/
def Obligations.DefaultZeroesEverySlot : Prop :=
  encode .default = 0x1000#16
  ∧ ∀ s : State, ∃ t, exec .default s = .next t ∧ AnsweredOnce s t .ok 0#256
      ∧ (∀ k, t.store.ch k = 0#64) ∧ (∀ idx, slotRead idx t = 0#4)
      ∧ t.store = State.reset.store ∧ t.store = splatStore 0#4

/-- `SPLAT v` makes word `k` all ones if bit `k` of `v` is 1 and 0 if not, and answers `OK` with no
data (R112). -/
def Obligations.SplatFillsTheChannels : Prop :=
  ∀ (v : Nibble) (s : State),
    encode (.splat v) = 0x2000#16 ||| v.setWidth 16
    ∧ ∃ t, exec (.splat v) s = .next t ∧ AnsweredOnce s t .ok 0#256
        ∧ ∀ k : Fin 4, t.store.ch k
            = if v.getLsbD k.val then 0xFFFFFFFFFFFFFFFF#64 else 0#64

/-- After a splat every index reads the value (R128). -/
def Obligations.SplatIsUniform : Prop :=
  ∀ (v : Nibble) (s : State), ∃ t, exec (.splat v) s = .next t
    ∧ ∀ idx : Index, exec (.get idx) t = .next (t.answer .ok (v.setWidth 256))

/-- `GET i` answers the nibble of slot `i` in `DATA[3:0]`, always `OK`, and changes nothing else
(R115). -/
def Obligations.GetAnswersTheSlot : Prop :=
  ∀ (idx : Index) (s : State),
    encode (.get idx) = 0x3000#16 ||| (idx.setWidth 16 <<< 4)
    ∧ exec (.get idx) s = .next (s.answer .ok ((slot s.store idx).setWidth 256))

/-- `SET i, v` writes bit `i` of every channel word with the bits of `v`, keeps the other 63 bits of
each, and answers `OK` with no data (R116). -/
def Obligations.SetWritesOneSlot : Prop :=
  ∀ (idx : Index) (v : Nibble) (s : State),
    encode (.set idx v) = (0x4000#16 ||| (idx.setWidth 16 <<< 4)) ||| v.setWidth 16
    ∧ ∃ t, exec (.set idx v) s = .next t ∧ AnsweredOnce s t .ok 0#256
        ∧ OnlySlotWritten s t idx v
        ∧ ∀ j : Index, slotRead j t = if j = idx then v else slotRead j s

/-- `GETC b` answers the nibble of slot `b` if `b < 64`, and `INVALID_INDEX` with no data exactly
otherwise; neither changes anything else (R117). -/
def Obligations.GetcChecksItsByte : Prop :=
  ∀ (b : Byte) (s : State),
    encode (.getc b) = 0x5000#16 ||| (b.setWidth 16 <<< 4)
    ∧ (b.toNat < 64 →
        exec (.getc b) s = .next (s.answer .ok ((slot s.store (indexOfByte b)).setWidth 256)))
    ∧ (64 ≤ b.toNat → exec (.getc b) s = .next (s.answer .invalidIndex 0#256))

/-- `SETC b, v` writes slot `b` and nothing else if `b < 64`; otherwise it answers `INVALID_INDEX` with
no data and writes nothing at all (R118). -/
def Obligations.SetcChecksItsByte : Prop :=
  ∀ (b : Byte) (v : Nibble) (s : State),
    encode (.setc b v) = (0x6000#16 ||| (b.setWidth 16 <<< 4)) ||| v.setWidth 16
    ∧ (b.toNat < 64 → ∃ t, exec (.setc b v) s = .next t ∧ AnsweredOnce s t .ok 0#256
        ∧ OnlySlotWritten s t (indexOfByte b) v)
    ∧ (64 ≤ b.toNat → exec (.setc b v) s = .next (s.answer .invalidIndex 0#256))

/-- `GETU b` answers the nibble of slot `b` if `b < 64` and changes nothing else; otherwise it faults;
its word is legal only on a block built with the unchecked commands (R119). -/
def Obligations.GetuTrustsItsByte : Prop :=
  ∀ (b : Byte) (s : State),
    encode (.getu b) = 0x7000#16 ||| (b.setWidth 16 <<< 4)
    ∧ decode true (encode (.getu b)) = .ok (.getu b)
    ∧ (∃ e, decode false (encode (.getu b)) = .error e)
    ∧ (b.toNat < 64 →
        exec (.getu b) s = .next (s.answer .ok ((slot s.store (indexOfByte b)).setWidth 256)))
    ∧ (64 ≤ b.toNat → exec (.getu b) s = .fault (.getuUndefined b))

/-- `SETU b, v` writes slot `b` and nothing else if `b < 64`; otherwise it faults and there is no next
state; its word is legal only on a block built with the unchecked commands (R120). -/
def Obligations.SetuTrustsItsByte : Prop :=
  ∀ (b : Byte) (v : Nibble) (s : State),
    encode (.setu b v) = (0x8000#16 ||| (b.setWidth 16 <<< 4)) ||| v.setWidth 16
    ∧ decode true (encode (.setu b v)) = .ok (.setu b v)
    ∧ (∃ e, decode false (encode (.setu b v)) = .error e)
    ∧ (b.toNat < 64 → ∃ t, exec (.setu b v) s = .next t ∧ AnsweredOnce s t .ok 0#256
        ∧ OnlySlotWritten s t (indexOfByte b) v)
    ∧ (64 ≤ b.toNat → exec (.setu b v) s = .fault (.setuUndefined b v))

/-- `CHANS` answers the four channel words, channel `k` in `DATA[64k+63 : 64k]`, always `OK`, and
changes nothing else (R121). -/
def Obligations.ChansAnswersTheChannels : Prop :=
  encode .chans = 0x9000#16
  ∧ ∀ s : State, ∃ data, exec .chans s = .next (s.answer .ok data)
      ∧ ∀ k : Fin 4, data.extractLsb' (64 * k.val) 64 = s.store.ch k

/-- For an in-range index the three forms of get agree, and so do the three forms of set (R114). -/
def Obligations.ThreeFormsAgree : Prop :=
  ∀ (s : State) (idx : Index) (v : Nibble),
    (∃ data, exec (.get idx) s = .next (s.answer .ok data))
    ∧ exec (.getc (indexByte idx)) s = exec (.get idx) s
    ∧ exec (.getu (indexByte idx)) s = exec (.get idx) s
    ∧ (∃ t, exec (.set idx v) s = .next t)
    ∧ exec (.setc (indexByte idx) v) s = exec (.set idx v) s
    ∧ exec (.setu (indexByte idx) v) s = exec (.set idx v) s

/-- A set then a get of the same index gives the value, from every state (R125). -/
def Obligations.SetThenGetRoundTrip : Prop :=
  ∀ (idx : Index) (v : Nibble) (s : State),
    ∃ t, exec (.set idx v) s = .next t
      ∧ exec (.get idx) t = .next (t.answer .ok (v.setWidth 256))

/-- Writing one index leaves what another reads (R126). -/
def Obligations.NoCrossTalk : Prop :=
  (∀ (S : Store) (i j : Index) (v : Nibble), j ≠ i → gather (scatter S i v) j = gather S j)
  ∧ ∀ (i j : Index) (v w : Nibble) (s : State), i ≠ j →
      ∃ t u, exec (.set i v) s = .next t ∧ exec (.set j w) t = .next u
        ∧ exec (.get i) u = .next (u.answer .ok (v.setWidth 256))

/-- After any run, from any state, each slot holds precisely the last value written at its index,
independent of writes at other indices, and what it held before where there was none; and a slot not
written since reset reads 0 (R127, with R49). -/
def Obligations.LastWriteWins : Prop :=
  (∀ s t : State, runAll s = .next t → ∀ j : Index,
    exec (.getu (indexByte j)) t
      = .next (t.answer .ok
          ((lastWritten s.uncheckedExposed j (slotRead j s) s.input).setWidth 256)))
  ∧ ∀ j : Index, slotRead j State.reset = 0#4

/-- All slots are 0 exactly when the OR of the four words is 0; a fresh default store reads 0
everywhere; the product of the words is no such test (R129). -/
def Obligations.DefaultIsZeroExactlyByOr : Prop :=
  (∀ S : Store, (∀ idx, gather S idx = 0#4) ↔ (S.ch0 ||| S.ch1 ||| S.ch2 ||| S.ch3) = 0#64)
  ∧ (∀ s : State, ∃ t, exec .default s = .next t
      ∧ ∀ idx, exec (.get idx) t = .next (t.answer .ok 0#256))
  ∧ ∃ S : Store, S = { ch0 := 0#64, ch1 := 1#64, ch2 := 0#64, ch3 := 0#64 }
      ∧ S.ch0 * S.ch1 * S.ch2 * S.ch3 = 0#64 ∧ gather S 0#6 = 2#4

/-- After reset all four words are 0, every `GET` answers 0, `CHANS` answers no bit, the OR of the words
is 0, and `DEFAULT` leaves the same store (R201). -/
def Obligations.ResetStateReadsZero : Prop :=
  (∀ k, State.reset.store.ch k = 0#64)
  ∧ (∀ idx, exec (.get idx) State.reset = .next (State.reset.answer .ok 0#256))
  ∧ exec .chans State.reset = .next (State.reset.answer .ok 0#256)
  ∧ (State.reset.store.ch0 ||| State.reset.store.ch1 ||| State.reset.store.ch2
      ||| State.reset.store.ch3) = 0#64
  ∧ ∃ t, exec .default State.reset = .next t ∧ t.store = State.reset.store

/-- From any state, the 64 commands `SET i, v_i`, in any order, leave the store in the state whose slot
`i` holds `v_i` for every `i`, and there is only one such store (R25). -/
def Obligations.EveryStoreIsReachable : Prop :=
  ∀ (s : State) (values : Index → Nibble) (order : List Index), order.Perm allIndices →
    ∃ t, runAll (s.withInput (order.map fun i => .command (encode (.set i (values i))))) = .next t
      ∧ (∀ idx, slot t.store idx = values idx)
      ∧ ∀ T : Store, (∀ idx, slot T idx = values idx) → T = t.store

/-- The engine refines the plain array of 64 nibbles: every command on the four packed words does to
the slot view what the array machine does to the array, with the same response, and is undefined
exactly where it is (R21, R22, and the rule of each command). -/
def Obligations.EngineRefinesSlotArray : Prop :=
  ∀ (i : Instr) (s : State),
    match arrayExec i (slot s.store) with
    | none => ∃ f, exec i s = .fault f
    | some reply => ∃ t, exec i s = .next t ∧ slot t.store = reply.slots
        ∧ AnsweredOnce s t reply.response.status reply.response.data

/-! ## The host layer -/

/-- What a view wrote at an in-range index it reads back through the codec: `decode (encode t)` (R161). -/
def Obligations.ViewReadsWhatItWrote : Prop :=
  ∀ (T E : Type) (c : Codec T E) (value : T) (x : ViewIndex) (s : State),
    (match x with
      | .index _ => True
      | .raw b => b.toNat < 64) →
    ∃ w r, viewWrite c value x s = .next w ∧ w.result = some (.ok ())
      ∧ viewRead c x w.block = .next r
      ∧ r.result = some (viewConvert c (c.encode value)) ∧ r.block.store = w.block.store

/-- A raw index of 64 or more makes a view's read and write fail with `InvalidIndex`, leaving the store
unchanged; the conversion is not run (R154, R156, R178). -/
def Obligations.ViewRejectsRawOutOfRange : Prop :=
  ∀ (T E : Type) (c : Codec T E) (value : T) (b : Byte) (s : State), 64 ≤ b.toNat →
    viewWrite c value (.raw b) s
        = .next { result := some (.error .invalidIndex), block := s.answer .invalidIndex 0#256 }
    ∧ viewRead c (.raw b) s
        = .next { result := some (.error .invalidIndex), block := s.answer .invalidIndex 0#256 }

/-- The unchecked view operations: below 64 they do what the index forms do, on a block built with the
unchecked commands; 64 or more is undefined there; on a block built without them they do not exist
(R155, R157, log 13). -/
def Obligations.ViewUncheckedOperations : Prop :=
  ∀ (T E : Type) (c : Codec T E) (value : T) (b : Byte) (s : State),
    (s.uncheckedExposed = true → b.toNat < 64 →
      viewWriteUnchecked c value b s = viewWrite c value (.index (indexOfByte b)) s
      ∧ viewReadUnchecked c b s = viewRead c (.index (indexOfByte b)) s)
    ∧ (s.uncheckedExposed = true → 64 ≤ b.toNat →
      viewWriteUnchecked c value b s = .fault (.setuUndefined b (c.encode value))
      ∧ viewReadUnchecked c b s = .fault (.getuUndefined b))
    ∧ (s.uncheckedExposed = false →
      viewWriteUnchecked c value b s = .next { result := none, block := s.answer .illegal 0#256 }
      ∧ viewReadUnchecked c b s = .next { result := none, block := s.answer .illegal 0#256 })

/-- After `empty()` with empty code `E`, every read gives what `E` decodes to; without an empty code
there is no `empty()` (R153, R160). -/
def Obligations.ViewEmptyFill : Prop :=
  ∀ (T E : Type) (c : Codec T E) (s : State),
    (∀ code, c.emptyCode = some code →
      ∃ w, viewEmpty c s = some (.next w) ∧ w.result = some (.ok ())
        ∧ ∀ idx, ∃ r, viewRead c (.index idx) w.block = .next r
            ∧ r.result = some (viewConvert c code))
    ∧ (c.emptyCode = none → viewEmpty c s = none)

/-- `toArray()` gives the 64 slots in index order, each converted on its own, by 64 `GET`s or by one
`CHANS` alike, and leaves the store as it was (R158). -/
def Obligations.ViewToArrayIsOrderedAndPure : Prop :=
  ∀ (T E : Type) (c : Codec T E) (s : State),
    (∃ t, viewToArray c s
        = .next (allIndices.map (fun idx => some (viewConvert c (slot s.store idx))), t)
      ∧ t.store = s.store)
    ∧ ∃ w, viewToArrayByChans c s = .next w
        ∧ w.result = some (.ok (allIndices.map fun idx => viewConvert c (slot s.store idx)))
        ∧ w.block.store = s.store

/-- An optional index is read back from its byte, whichever pattern means "no index", and that pattern
is no index's byte (R27). -/
def Obligations.OptionalIndexRoundTrip : Prop :=
  (∀ o : Option Index, readOptionalIndex (optionalIndexByte o) = some o)
  ∧ 64 ≤ Config.noneIndexPattern.toNat
  ∧ ∀ idx : Index, optionalIndexByte (some idx) ≠ optionalIndexByte none

/-- The model's own layout of a host's 32 bytes (DESIGN CHOICE, log 11; R44 asks only that the channel
order and each channel's bits be kept): byte `8k + j` holds bits `8j + 7` to `8j` of channel `k` in the
little order and bits `63 - 8j` to `56 - 8j` in the big order, and the bytes determine the store. -/
def Obligations.StoreBytesDetermineTheStore : Prop :=
  ∀ (order : ByteOrder) (S T : Store),
    (storeBytes order S).length = 32
    ∧ (∀ (k : Fin 4) (j : Fin 8), (storeBytes order S)[8 * k.val + j.val]?
        = some (match order with
          | .little => (S.ch k).extractLsb' (8 * j.val) 8
          | .big => (S.ch k).extractLsb' (56 - 8 * j.val) 8))
    ∧ (storeBytes order S = storeBytes order T → S = T)
end

