-- ==== Sys2Proof/Laws/State.lean ====
section
/-! SUPPORT. One lemma per field per update of State, and the small lemmas of Store. -/

namespace Sys2Proof.Machine

variable (s : State) (S : Store) (st : Status) (d : Data) (idx : Index) (v : Nibble)

@[simp] theorem answer_store : (s.answer st d).store = s.store := rfl
@[simp] theorem answer_uncheckedExposed :
    (s.answer st d).uncheckedExposed = s.uncheckedExposed := rfl
@[simp] theorem answer_input : (s.answer st d).input = s.input := rfl
@[simp] theorem answer_responses :
    (s.answer st d).responses = s.responses ++ [{ status := st, data := d }] := rfl

@[simp] theorem withInput_store (l : List HostInput) : (s.withInput l).store = s.store := rfl
@[simp] theorem withInput_uncheckedExposed (l : List HostInput) :
    (s.withInput l).uncheckedExposed = s.uncheckedExposed := rfl
@[simp] theorem withInput_input (l : List HostInput) : (s.withInput l).input = l := rfl
@[simp] theorem withInput_responses (l : List HostInput) :
    (s.withInput l).responses = s.responses := rfl
@[simp] theorem withInput_withInput (l m : List HostInput) :
    (s.withInput l).withInput m = s.withInput m := rfl
@[simp] theorem withInput_self : s.withInput s.input = s := rfl

@[simp] theorem present_store (cw : CommandWord) : (s.present cw).store = s.store := rfl
@[simp] theorem present_uncheckedExposed (cw : CommandWord) :
    (s.present cw).uncheckedExposed = s.uncheckedExposed := rfl
@[simp] theorem present_input (cw : CommandWord) :
    (s.present cw).input = .command cw :: s.input := rfl
@[simp] theorem present_responses (cw : CommandWord) :
    (s.present cw).responses = s.responses := rfl

@[simp] theorem writeStore_store : (writeStore S s).store = S := rfl
@[simp] theorem writeStore_uncheckedExposed :
    (writeStore S s).uncheckedExposed = s.uncheckedExposed := rfl
@[simp] theorem writeStore_input : (writeStore S s).input = s.input := rfl
@[simp] theorem writeStore_responses : (writeStore S s).responses = s.responses := rfl

@[simp] theorem slotWrite_store : (slotWrite idx v s).store = scatter s.store idx v := rfl
@[simp] theorem slotWrite_uncheckedExposed :
    (slotWrite idx v s).uncheckedExposed = s.uncheckedExposed := rfl
@[simp] theorem slotWrite_input : (slotWrite idx v s).input = s.input := rfl
@[simp] theorem slotWrite_responses : (slotWrite idx v s).responses = s.responses := rfl

@[simp] theorem lastResponse_answer :
    (s.answer st d).lastResponse = some { status := st, data := d } := by
  simp [State.lastResponse]

/-! ## Store -/

@[simp] theorem ch_tabulate (word : Fin 4 → Channel) (k : Fin 4) :
    (Store.tabulate word).ch k = word k := by
  fin_cases k <;> rfl

@[simp] theorem ch_zero (k : Fin 4) : Store.zero.ch k = 0#64 := by
  fin_cases k <;> rfl

/-- A store is its four channel words (R20). -/
theorem Store.ext_ch {S T : Store} (h : ∀ k, S.ch k = T.ch k) : S = T := by
  cases S
  cases T
  have h0 := h 0
  have h1 := h 1
  have h2 := h 2
  have h3 := h 3
  simp only [Store.ch] at h0 h1 h2 h3
  subst h0 h1 h2 h3
  rfl

end Sys2Proof.Machine
end

