-- ==== Sys2Proof/Laws/Ops.lean ====
section
/-! SUPPORT. What each shared operation can do, said once, and what `exec` and `step` make of each case:
later proofs cite these and unfold nothing. -/

namespace Sys2Proof.Machine

/-! ## Answering -/

theorem respond_next {st : Status} {d : Data} {s t : State} (h : respond st d s = .next t) :
    t = s.answer st d := by
  cases h
  rfl

theorem raiseInvalidIndex_next {s t : State} (h : raiseInvalidIndex s = .next t) :
    t = s.answer .invalidIndex 0#256 :=
  respond_next h

theorem raiseIllegal_next {s t : State} (h : raiseIllegal s = .next t) :
    t = s.answer .illegal 0#256 :=
  respond_next h

theorem applyReset_next {s t : State} (h : applyReset s = .next t) :
    t = writeStore Store.zero s := by
  cases h
  rfl

theorem idle_next {s t : State} (h : idle s = .next t) : t = s := by
  cases h
  rfl

/-! ## The words of the store operations -/

/-- Word `k` after a scatter (R113). -/
@[simp] theorem ch_scatter (S : Store) (idx : Index) (v : Nibble) (k : Fin 4) :
    (scatter S idx v).ch k = (S.ch k &&& ~~~slotMask idx) ||| (nibbleBit v k <<< shiftOf idx) :=
  ch_tabulate _ k

/-- Word `k` after a fill (R112). -/
@[simp] theorem ch_splatStore (v : Nibble) (k : Fin 4) :
    (splatStore v).ch k = Config.allOnes * nibbleBit v k :=
  ch_tabulate _ k

/-! ## Taking an input -/

theorem fetch_nil {s : State} (h : s.input = []) : fetch s = .nothing s := by
  simp [fetch, h]

theorem fetch_reset {s : State} {rest : List HostInput} (h : s.input = .reset :: rest) :
    fetch s = .reset (s.withInput rest) := by
  simp [fetch, h]

theorem fetch_illegal {s : State} {rest : List HostInput} {cw : CommandWord} {e : DecodeError}
    (h : s.input = .command cw :: rest) (hd : decode s.uncheckedExposed cw = .error e) :
    fetch s = .illegal e (s.withInput rest) := by
  simp [fetch, h, hd]

theorem fetch_command {s : State} {rest : List HostInput} {cw : CommandWord} {i : Instr}
    (h : s.input = .command cw :: rest) (hd : decode s.uncheckedExposed cw = .ok i) :
    fetch s = .command i (s.withInput rest) := by
  simp [fetch, h, hd]

/-- Everything taking an input can give. -/
theorem fetch_cases (s : State) :
    (s.input = [] ∧ fetch s = .nothing s)
    ∨ (∃ rest, s.input = .reset :: rest ∧ fetch s = .reset (s.withInput rest))
    ∨ (∃ cw rest e, s.input = .command cw :: rest ∧ decode s.uncheckedExposed cw = .error e
        ∧ fetch s = .illegal e (s.withInput rest))
    ∨ (∃ cw rest i, s.input = .command cw :: rest ∧ decode s.uncheckedExposed cw = .ok i
        ∧ fetch s = .command i (s.withInput rest)) := by
  rcases h : s.input with _ | ⟨cw | _, rest⟩
  · exact .inl ⟨rfl, fetch_nil h⟩
  · rcases hd : decode s.uncheckedExposed cw with e | i
    · exact .inr (.inr (.inl ⟨cw, rest, e, rfl, hd, fetch_illegal h hd⟩))
    · exact .inr (.inr (.inr ⟨cw, rest, i, rfl, hd, fetch_command h hd⟩))
  · exact .inr (.inl ⟨rest, rfl, fetch_reset h⟩)

/-! ## Each meaning in its operands' cases -/

theorem execIdxtry_valid {b : Byte} (h : isValidIndex b = true) (s : State) :
    execIdxtry b s = .next (s.answer .ok (b.setWidth 256)) := by
  simp [execIdxtry, h, respond]

theorem execIdxtry_invalid {b : Byte} (h : isValidIndex b = false) (s : State) :
    execIdxtry b s = .next (s.answer .invalidIndex 0#256) := by
  simp [execIdxtry, h, raiseInvalidIndex, respond]

theorem execIdxu_inRange {b : Byte} (h : inRange b = true) (s : State) :
    execIdxu b s = .next (s.answer .ok (b.setWidth 256)) := by
  simp [execIdxu, h, respond]

theorem execIdxu_undefined {b : Byte} (h : inRange b = false) (s : State) :
    execIdxu b s = .fault (.idxuUndefined b) := by
  simp [execIdxu, h, raiseUndefined]

theorem execGetc_valid {b : Byte} (h : isValidIndex b = true) (s : State) :
    execGetc b s = .next (s.answer .ok (nibbleData (slotRead (truncIndex b) s))) := by
  simp [execGetc, h, respond]

theorem execGetc_invalid {b : Byte} (h : isValidIndex b = false) (s : State) :
    execGetc b s = .next (s.answer .invalidIndex 0#256) := by
  simp [execGetc, h, raiseInvalidIndex, respond]

theorem execSetc_valid {b : Byte} (h : isValidIndex b = true) (v : Nibble) (s : State) :
    execSetc b v s = .next ((slotWrite (truncIndex b) v s).answer .ok 0#256) := by
  simp [execSetc, h, respond]

theorem execSetc_invalid {b : Byte} (h : isValidIndex b = false) (v : Nibble) (s : State) :
    execSetc b v s = .next (s.answer .invalidIndex 0#256) := by
  simp [execSetc, h, raiseInvalidIndex, respond]

theorem execGetu_inRange {b : Byte} (h : inRange b = true) (s : State) :
    execGetu b s = .next (s.answer .ok (nibbleData (slotRead (truncIndex b) s))) := by
  simp [execGetu, h, respond]

theorem execGetu_undefined {b : Byte} (h : inRange b = false) (s : State) :
    execGetu b s = .fault (.getuUndefined b) := by
  simp [execGetu, h, raiseUndefined]

theorem execSetu_inRange {b : Byte} (h : inRange b = true) (v : Nibble) (s : State) :
    execSetu b v s = .next ((slotWrite (truncIndex b) v s).answer .ok 0#256) := by
  simp [execSetu, h, respond]

theorem execSetu_undefined {b : Byte} (h : inRange b = false) (v : Nibble) (s : State) :
    execSetu b v s = .fault (.setuUndefined b v) := by
  simp [execSetu, h, raiseUndefined]

end Sys2Proof.Machine
end

