-- ==== Sys2Proof/Laws/PerInstr.lean ====
section
/-! SUPPORT. Facts stated for every instruction, one lemma per constructor of Instr. -/

namespace Sys2Proof.Laws

/-- The word of an instruction matches its own row of R64: `w & mask = match`. -/
def EncodedWord.Statement (i : Instr) : Prop :=
  encode i &&& i.opcode.maskWord = i.opcode.matchWord

/-- Every encoded word matches its row, bit by bit. -/
theorem encode_matches_row (i : Instr) : EncodedWord.Statement i := by
  unfold EncodedWord.Statement
  apply BitVec.eq_of_getLsbD_eq
  intro j hj
  cases i <;> interval_cases j <;>
    simp [encode, Instr.opcode, Opcode.bits, Opcode.maskWord, Opcode.matchWord,
      Instr.byteOperand, Instr.nibbleOperand, indexByte]

theorem EncodedWord.default : EncodedWord.Statement .default := encode_matches_row _

theorem EncodedWord.splat (v : Nibble) : EncodedWord.Statement (.splat v) := encode_matches_row _

theorem EncodedWord.get (idx : Index) : EncodedWord.Statement (.get idx) := encode_matches_row _

theorem EncodedWord.set (idx : Index) (v : Nibble) : EncodedWord.Statement (.set idx v) :=
  encode_matches_row _

theorem EncodedWord.getc (b : Byte) : EncodedWord.Statement (.getc b) := encode_matches_row _

theorem EncodedWord.setc (b : Byte) (v : Nibble) : EncodedWord.Statement (.setc b v) :=
  encode_matches_row _

theorem EncodedWord.getu (b : Byte) : EncodedWord.Statement (.getu b) := encode_matches_row _

theorem EncodedWord.setu (b : Byte) (v : Nibble) : EncodedWord.Statement (.setu b v) :=
  encode_matches_row _

theorem EncodedWord.chans : EncodedWord.Statement .chans := encode_matches_row _

theorem EncodedWord.idxtry (b : Byte) : EncodedWord.Statement (.idxtry b) := encode_matches_row _

theorem EncodedWord.idxu (b : Byte) : EncodedWord.Statement (.idxu b) := encode_matches_row _

theorem EncodedWord.idxbyte (idx : Index) : EncodedWord.Statement (.idxbyte idx) :=
  encode_matches_row _

theorem EncodedWord.idxvalid (b : Byte) : EncodedWord.Statement (.idxvalid b) :=
  encode_matches_row _

end Sys2Proof.Laws
end

