-- ==== Sys2Proof/Laws/Run.lean ====
section
/-! SUPPORT. What one step and a run of many steps can do: the case split of `step`, and a run one step at
a time. -/

namespace Sys2Proof.Machine

/-- Everything a step can be (R60, R65, R200). -/
theorem step_cases (s : State) :
    (s.input = [] ∧ step s = idle s)
    ∨ (∃ rest, s.input = .reset :: rest ∧ step s = applyReset (s.withInput rest))
    ∨ (∃ cw rest e, s.input = .command cw :: rest ∧ decode s.uncheckedExposed cw = .error e
        ∧ step s = raiseIllegal (s.withInput rest))
    ∨ (∃ cw rest i, s.input = .command cw :: rest ∧ decode s.uncheckedExposed cw = .ok i
        ∧ step s = exec i (s.withInput rest)) := by
  rcases fetch_cases s with ⟨h, hf⟩ | ⟨rest, h, hf⟩ | ⟨cw, rest, e, h, hd, hf⟩
    | ⟨cw, rest, i, h, hd, hf⟩
  · exact .inl ⟨h, by simp [step, hf]⟩
  · exact .inr (.inl ⟨rest, h, by simp [step, hf]⟩)
  · exact .inr (.inr (.inl ⟨cw, rest, e, h, hd, by simp [step, hf]⟩))
  · exact .inr (.inr (.inr ⟨cw, rest, i, h, hd, by simp [step, hf]⟩))

theorem run_zero (s : State) : Sys2Proof.core.run 0 s = .next s := rfl

/-- A step that goes on, on any machine of the host's interface. -/
theorem core_run_of_next (M : Host.Core) {s t : M.State} (h : M.step s = .next t) (n : Nat) :
    M.run (n + 1) s = M.run n t := by
  simp only [Host.Core.run, h]

/-- A step that faults ends the run, on any machine of the host's interface. -/
theorem core_run_of_fault (M : Host.Core) {s : M.State} {f : M.Fault} (h : M.step s = .fault f)
    (n : Nat) : M.run (n + 1) s = .fault f := by
  simp only [Host.Core.run, h]

theorem run_succ_of_next {s t : State} (h : step s = .next t) (n : Nat) :
    Sys2Proof.core.run (n + 1) s = Sys2Proof.core.run n t :=
  core_run_of_next Sys2Proof.core h n

theorem run_succ_of_fault {s : State} {f : Fault} (h : step s = .fault f) (n : Nat) :
    Sys2Proof.core.run (n + 1) s = .fault f :=
  core_run_of_fault Sys2Proof.core h n

end Sys2Proof.Machine
end

