-- ==== Sys2Proof/Tests/Slice0.lean ====
section
/-! SUPPORT. Small tests of the model. Words and expected results are from spec/30_encoding.md R64 and
R75 and from the vectors V1 to V11 of spec/95_test_vectors.md, each named where it is used. Then one
witness for the hypotheses of every statement that has some. -/

namespace Sys2Proof.Tests

open Sys2Proof Sys2Proof.Machine

/-- A block with store `S` and one word pending. -/
def block (S : Store) (cw : CommandWord) : State :=
  { State.reset with store := S, input := [.command cw] }

/-- A block built without the unchecked commands. -/
def hidden (cw : CommandWord) : State :=
  { State.reset with uncheckedExposed := false, input := [.command cw] }

/-- The store after a step, if there is one. -/
def storeAfter (s : State) : Option Store :=
  match step s with
  | .next t => some t.store
  | .fault _ => none
  | .refused _ => none

/-- The response a step gives, if it gives one. -/
def answerOf (s : State) : Option (BitVec 2 × Nat) :=
  match step s with
  | .next t => t.lastResponse.map fun r => (r.status.code, r.data.toNat)
  | .fault _ => none
  | .refused _ => none

/-- The final store of V1. -/
def scenario : Store :=
  { ch0 := 0x8000000100000021#64, ch1 := 0x8000000100000001#64, ch2 := 0x8000000100000021#64,
    ch3 := 0x0000000100000021#64 }

/-- All four words all ones: the start state of V6. -/
def ones : Store :=
  { ch0 := 0xFFFFFFFFFFFFFFFF#64, ch1 := 0xFFFFFFFFFFFFFFFF#64, ch2 := 0xFFFFFFFFFFFFFFFF#64,
    ch3 := 0xFFFFFFFFFFFFFFFF#64 }

/-! ## Decoding: one word per command, each written bit by bit from R61 and R62 -/

theorem test_decode_default : decode true 0b0001000000000000#16 = .ok .default := by decide
theorem test_decode_splat : decode true 0b0010000000001010#16 = .ok (.splat 0xA#4) := by decide
theorem test_decode_get : decode true 0b0011000001010000#16 = .ok (.get 5#6) := by decide
theorem test_decode_set : decode true 0b0100001111110111#16 = .ok (.set 63#6 7#4) := by decide
theorem test_decode_getc : decode true 0b0101010000000000#16 = .ok (.getc 64#8) := by decide
theorem test_decode_setc : decode true 0b0110110010000011#16 = .ok (.setc 200#8 3#4) := by decide
theorem test_decode_getu : decode true 0b0111001111110000#16 = .ok (.getu 63#8) := by decide
theorem test_decode_setu : decode true 0b1000000000001111#16 = .ok (.setu 0#8 15#4) := by decide
theorem test_decode_chans : decode true 0b1001000000000000#16 = .ok .chans := by decide
theorem test_decode_idxtry : decode true 0b1010010000000000#16 = .ok (.idxtry 64#8) := by decide
theorem test_decode_idxu : decode true 0b1011001111110000#16 = .ok (.idxu 63#8) := by decide
theorem test_decode_idxbyte : decode true 0b1100001111110000#16 = .ok (.idxbyte 63#6) := by decide
theorem test_decode_idxvalid : decode true 0b1101111111110000#16 = .ok (.idxvalid 255#8) := by decide

/-- V10: reserved opcodes. -/
theorem test_decode_reserved : decode true 0x0000#16 = .error .reservedOpcode
    ∧ decode true 0xE000#16 = .error .reservedOpcode
    ∧ decode true 0xFFFF#16 = .error .reservedOpcode := by decide

/-- V10: one word per format with a must-be-zero field that is not zero. -/
theorem test_decode_fields : decode true 0x1010#16 = .error .fieldNotZero
    ∧ decode true 0x2105#16 = .error .fieldNotZero ∧ decode true 0x3400#16 = .error .fieldNotZero
    ∧ decode true 0x445D#16 = .error .fieldNotZero ∧ decode true 0x5401#16 = .error .fieldNotZero
    ∧ decode true 0x9800#16 = .error .fieldNotZero ∧ decode true 0xC3F1#16 = .error .fieldNotZero := by
  decide

/-- V10, right column: the unchecked commands hidden. -/
theorem test_decode_hidden : decode false 0x73F0#16 = .error .uncheckedNotExposed
    ∧ decode false 0x8FFF#16 = .error .uncheckedNotExposed
    ∧ decode false 0xB3F0#16 = .error .uncheckedNotExposed := by decide

/-! ## WellFormed: each check refuses an ill-formed term -/

theorem test_getu_ill_formed : ¬ Instr.WellFormed false (.getu 63#8) := by decide
theorem test_setu_ill_formed : ¬ Instr.WellFormed false (.setu 0#8 15#4) := by decide
theorem test_idxu_ill_formed : ¬ Instr.WellFormed false (.idxu 5#8) := by decide
theorem test_getc_well_formed : Instr.WellFormed false (.getc 255#8) := by decide

/-! ## One step of each command -/

/-- R111, from V6's start state. -/
theorem test_default : storeAfter (block ones 0x1000#16) = some Store.zero := by decide
/-- V3, row 10. -/
theorem test_splat : storeAfter (block scenario 0x200A#16) = some { ch0 := 0#64, ch1 := 0xFFFFFFFFFFFFFFFF#64, ch2 := 0#64, ch3 := 0xFFFFFFFFFFFFFFFF#64 } := by
  decide
/-- V1. -/
theorem test_get : answerOf (block scenario 0x3050#16) = some (0#2, 0xD) := by decide
/-- V1: the top bit of every word. -/
theorem test_get_top : answerOf (block scenario 0x33F0#16) = some (0#2, 7) := by decide
/-- R116's example. -/
theorem test_set : storeAfter (block Store.zero 0x405D#16)
    = some { ch0 := 0x20#64, ch1 := 0#64, ch2 := 0x20#64, ch3 := 0x20#64 } := by decide
/-- V6: writing clears as well as sets. -/
theorem test_set_clears : storeAfter (block ones 0x41F5#16)
    = some { ch0 := 0xFFFFFFFFFFFFFFFF#64, ch1 := 0xFFFFFFFF7FFFFFFF#64,
             ch2 := 0xFFFFFFFFFFFFFFFF#64, ch3 := 0xFFFFFFFF7FFFFFFF#64 } := by decide
/-- V7: 64 fails and does not read slot 0, which holds 15 in V1. -/
theorem test_getc_out_of_range : answerOf (block scenario 0x5400#16) = some (1#2, 0) := by decide
/-- V7. -/
theorem test_getc : answerOf (block scenario 0x53F0#16) = some (0#2, 7) := by decide
/-- V7: 200 fails and does not write slot 8. -/
theorem test_setc_out_of_range : storeAfter (block scenario 0x6C83#16) = some scenario
    ∧ answerOf (block scenario 0x6C83#16) = some (1#2, 0) := by decide
/-- V7. -/
theorem test_setc : storeAfter (block Store.zero 0x63F9#16)
    = some { ch0 := 0x8000000000000000#64, ch1 := 0#64, ch2 := 0#64,
             ch3 := 0x8000000000000000#64 } := by decide
/-- V8. -/
theorem test_getu : answerOf (block scenario 0x73F0#16) = some (0#2, 7) := by decide
/-- V8. -/
theorem test_getu_undefined : step (block scenario 0x7400#16) = .fault (.getuUndefined 64#8) := rfl
/-- V8. -/
theorem test_setu : storeAfter (block Store.zero 0x800F#16)
    = some { ch0 := 1#64, ch1 := 1#64, ch2 := 1#64, ch3 := 1#64 } := by decide
/-- V8. -/
theorem test_setu_undefined :
    step (block Store.zero 0x840F#16) = .fault (.setuUndefined 64#8 15#4) := rfl
/-- V9. -/
theorem test_chans : answerOf (block scenario 0x9000#16) = some (0#2,
    0x0000000100000021800000010000002180000001000000018000000100000021) := by decide
/-- V4. -/
theorem test_idxtry : answerOf (block ones 0xA3F0#16) = some (0#2, 63)
    ∧ answerOf (block ones 0xA400#16) = some (1#2, 0) := by decide
/-- V4. -/
theorem test_idxu : answerOf (block ones 0xB3F0#16) = some (0#2, 63) := by decide
/-- V4. -/
theorem test_idxu_undefined : step (block ones 0xB400#16) = .fault (.idxuUndefined 64#8) := rfl
/-- V4. -/
theorem test_idxbyte : answerOf (block ones 0xC3F0#16) = some (0#2, 0x3F) := by decide
/-- V4: the corners of the mask. -/
theorem test_idxvalid : answerOf (block ones 0xD3F0#16) = some (0#2, 1)
    ∧ answerOf (block ones 0xD400#16) = some (0#2, 0)
    ∧ answerOf (block ones 0xD800#16) = some (0#2, 0)
    ∧ answerOf (block ones 0xDC00#16) = some (0#2, 0) := by decide
/-- V8, last sentence: a hidden command is `ILLEGAL`. -/
theorem test_hidden_illegal : answerOf (hidden 0x7400#16) = some (3#2, 0) := by decide
/-- R178: `ILLEGAL` has priority over `INVALID_INDEX`. -/
theorem test_illegal_first : answerOf (block scenario 0x5401#16) = some (3#2, 0) := by decide
/-- A placed word is what the next step runs. -/
theorem test_placed : answerOf (State.reset.withFetchWord 16 0x9000) = some (0#2, 0) := by decide
/-- R200. -/
theorem test_reset_input : storeAfter { State.reset with store := ones, input := [.reset] }
    = some Store.zero := by decide

/-! ## The assembler and the host layer -/

/-- R73: `GET 64` cannot be assembled, while `GETC 64` can. -/
theorem test_assemble_range : assemble "GET 64".toList = none
    ∧ assemble "GETC 64".toList = some (.getc 64#8) := by decide
/-- R73: the symbol `MAX`, and an underscore between digits. -/
theorem test_assemble_forms : assemble "IDXTRY MAX".toList = some (.idxtry 63#8)
    ∧ assemble "IDXVALID 0b1100_0000".toList = some (.idxvalid 0xC0#8) := by decide

/-- The element type of V11. -/
inductive Sample
  | empty
  | a
  | b
  | c
  deriving DecidableEq, Repr

/-- The codec of V11; its error is the code itself. -/
def sampleCodec : Codec Sample Nibble where
  encode
    | .empty => 0xF#4
    | .a => 1#4
    | .b => 2#4
    | .c => 3#4
  decode n :=
    if n = 1#4 then .ok .a else if n = 2#4 then .ok .b else if n = 3#4 then .ok .c
    else if n = 0xF#4 then .ok .empty else .error n
  emptyCode := some 0xF#4

/-- A codec without an empty code. -/
def bareCodec : Codec Sample Nibble := { sampleCodec with emptyCode := none }

/-- The result of a view operation, if the block goes on. -/
def viewOf {E A : Type} (o : Host.Outcome (ViewReply E A) Fault Refusal) :
    Option (Except (ViewError E) A) :=
  match o with
  | .next r => r.result
  | .fault _ => none
  | .refused _ => none

/-- V11: a default view reads an error, because the codec has no value with code 0. -/
theorem test_view_default :
    viewOf (viewRead sampleCodec (.index 20#6) State.reset) = some (.error (.conversion 0#4)) := rfl
/-- V11: the index is tested before the conversion. -/
theorem test_view_raw :
    viewOf (viewRead sampleCodec (.raw 64#8) State.reset) = some (.error .invalidIndex) := rfl
/-- R156: a failed conversion is reported as status 2. -/
theorem test_view_status :
    (viewStatus (E := Nibble) (A := Sample) (.error (.conversion 6#4))).code = 2#2 := rfl

/-! ## Witnesses: a concrete case that meets all the hypotheses of each statement that has some -/

theorem witness_DecodeOfEncode :
    Instr.WellFormed true (.setu 255#8 15#4) ∧ Instr.WellFormed false (.set 63#6 15#4) := by decide

theorem witness_EncodeOfDecode : decode true 0x8FFF#16 = .ok (.setu 255#8 15#4)
    ∧ decode false 0x43FF#16 = .ok (.set 63#6 15#4) := by decide

theorem witness_TableRowsDisjoint :
    0x5FF0#16 &&& Opcode.getc.maskWord = Opcode.getc.matchWord := by decide

theorem witness_IllegalWordsAreExactlyTheSevenCases :
    (block ones 0x3450#16).input = [.command 0x3450#16]
    ∧ IllegalWord (block ones 0x3450#16).uncheckedExposed 0x3450#16
    ∧ IllegalWord (hidden 0xB000#16).uncheckedExposed 0xB000#16 := by
  refine ⟨rfl, ?_, ?_⟩ <;> unfold IllegalWord <;> decide

theorem witness_StepRunsDecodedCommand :
    (block ones 0x43F7#16).input = [.command 0x43F7#16]
    ∧ decode (block ones 0x43F7#16).uncheckedExposed 0x43F7#16 = .ok (.set 63#6 7#4) := by decide

theorem witness_PlacedWordRunsAtOnce : State.reset.uncheckedExposed = true
    ∧ decodeTableWord 16 0x73F0 = some (.getu 63#8) := by decide

theorem witness_ResetInputClearsStore :
    ({ block ones 0x1000#16 with input := [.reset, .command 0x9000#16] } : State).input
      = .reset :: [.command 0x9000#16] := rfl

theorem witness_IdleStepChangesNothing : State.reset.input = [] := rfl

theorem witness_CommandEndsInOneOfFourWays :
    (block ones 0x6409#16).input = .command 0x6409#16 :: [] := rfl

theorem witness_FaultExactlyOnUncheckedOutOfRange :
    step (block ones 0x7400#16) = .fault (.getuUndefined 64#8)
    ∧ (64#8 : Byte).toNat = 64 ∧ decode true 0x7400#16 = .ok (.getu 64#8) :=
  ⟨rfl, rfl, by decide⟩

/-- A block that has answered one error and has a word pending. -/
def answered : State :=
  { block ones 0x3000#16 with responses := [{ status := .invalidIndex, data := 0#256 }] }

theorem answered_sound : ResponsesSound answered := by
  intro r hr
  simp only [answered, List.mem_singleton] at hr
  subst hr
  exact ⟨by decide, fun _ => rfl⟩

theorem witness_StepKeepsResponsesSound : ResponsesSound answered
    ∧ step answered = .next ((answered.withInput []).answer .ok 15#256) :=
  ⟨answered_sound, rfl⟩

theorem witness_StepKeepsBuildAndAnswersAtMostOnce :
    step answered = .next ((answered.withInput []).answer .ok 15#256) := rfl

theorem witness_SafeInputRunsToTheEnd : SafeInput (block ones 0x83FF#16) := by
  intro cw hm instr hd
  simp only [block, List.mem_singleton, HostInput.command.injEq] at hm
  subst hm
  have h : decode (block ones 0x83FF#16).uncheckedExposed 0x83FF#16 = .ok (.setu 63#8 15#4) := by
    decide
  rw [h] at hd
  cases hd
  rfl

theorem witness_ReadingCommandsLeaveTheStore : writesStore (.getc 64#8) = false
    ∧ exec (.getc 64#8) answered = .next (answered.answer .invalidIndex 0#256) := ⟨rfl, rfl⟩

/-- The boundary bytes of every clause of IdxtryChecksItsByte, IdxuTrustsItsByte,
IdxtryAndIdxbyteAreInverse, GetcChecksItsByte, SetcChecksItsByte, GetuTrustsItsByte and
SetuTrustsItsByte. -/
theorem witness_byte_clauses : (0#8 : Byte).toNat < 64 ∧ (63#8 : Byte).toNat < 64
    ∧ 64 ≤ (64#8 : Byte).toNat ∧ 64 ≤ (255#8 : Byte).toNat := by decide

theorem witness_OnlyIdxtryOfItsFamilyFails : isIndexFamily (.idxtry 64#8) = true
    ∧ isIndexFamily (.idxu 64#8) = true ∧ isIndexFamily (.idxbyte 63#6) = true := by decide

theorem witness_AnsweredIndicesAreInRange : isIndexFamily (.idxtry 63#8) = true
    ∧ exec (.idxtry 63#8) answered = .next (answered.answer .ok 63#256)
    ∧ (answered.answer .ok 63#256).lastResponse = some { status := .ok, data := 63#256 } :=
  ⟨rfl, rfl, rfl⟩

theorem witness_IndexFamilyIgnoresTheStore : isIndexFamily (.idxu 64#8) = true
    ∧ exec (.idxu 64#8) answered = .fault (.idxuUndefined 64#8)
    ∧ exec (.idxu 63#8) answered = .next (answered.answer .ok 63#256) := ⟨rfl, rfl, rfl⟩

theorem witness_BitMapOfGatherAndScatter : (0#6 : Index) ≠ 63#6 := by decide

theorem witness_AlgebraOfWrites : (0#6 : Index) ≠ 63#6 := by decide

theorem witness_NoCrossTalk : (63#6 : Index) ≠ 0#6 := by decide

theorem witness_LastWriteWins : runAll (block ones 0x43F7#16)
    = .next ((slotWrite 63#6 7#4 ((block ones 0x43F7#16).withInput [])).answer .ok 0#256) := rfl

theorem witness_EveryStoreIsReachable : allIndices.reverse.Perm allIndices :=
  List.reverse_perm _

theorem witness_ViewReadsWhatItWrote : match ViewIndex.raw 63#8 with
    | .index _ => True
    | .raw b => b.toNat < 64 := by decide

theorem witness_ViewRejectsRawOutOfRange : 64 ≤ (64#8 : Byte).toNat := by decide

theorem witness_ViewUncheckedOperations : State.reset.uncheckedExposed = true
    ∧ (63#8 : Byte).toNat < 64 ∧ 64 ≤ (64#8 : Byte).toNat
    ∧ (hidden 0x9000#16).uncheckedExposed = false := by decide

theorem witness_ViewEmptyFill : sampleCodec.emptyCode = some 0xF#4 ∧ bareCodec.emptyCode = none :=
  ⟨rfl, rfl⟩

/-- The hypothesis of the last clause, and the first and last bytes of the layout of log 11 in V1's
store. -/
theorem witness_StoreBytesDetermineTheStore :
    storeBytes .little scenario = storeBytes .little scenario
    ∧ (storeBytes .little scenario)[0]? = some 0x21#8
    ∧ (storeBytes .big scenario)[0]? = some 0x80#8
    ∧ (storeBytes .big scenario)[31]? = some 0x21#8 := ⟨rfl, by decide, by decide, by decide⟩

end Sys2Proof.Tests
end

/-! # Proofs: the state, the slot view and the store

SUPPORT. The facts about operands, the slot view, the meanings of the commands and the runs of the
host's words, in the order of the model's definitions; then the statements they settle. -/

/-! ## Operands and results (R63, R68, R90) -/

namespace Sys2Proof.Machine

/-- The mask test against the two high bits is the comparison with 64, over all 256 bytes (R96). -/
theorem isValidIndex_iff_lt (b : Byte) : isValidIndex b = true ↔ b.toNat < 64 := by
  revert b
  decide

theorem isValidIndex_eq_false {b : Byte} (h : ¬ b.toNat < 64) : isValidIndex b = false :=
  Bool.eq_false_iff.mpr fun hv => h ((isValidIndex_iff_lt b).mp hv)

/-- The host's precondition is the same comparison (R93, R185). -/
theorem inRange_iff_lt (b : Byte) : inRange b = true ↔ b.toNat < 64 := by
  simp [inRange, BitVec.lt_def]

theorem inRange_eq_false {b : Byte} (h : ¬ b.toNat < 64) : inRange b = false :=
  Bool.eq_false_iff.mpr fun hr => h ((inRange_iff_lt b).mp hr)

/-- The hardware's truncation of a byte is the slot view's reading of it (R63). -/
theorem truncIndex_eq_indexOfByte (b : Byte) : truncIndex b = indexOfByte b := rfl

@[simp] theorem indexByte_toNat (idx : Index) : (indexByte idx).toNat = idx.toNat := by
  simp only [indexByte, BitVec.toNat_setWidth]
  omega

@[simp] theorem truncIndex_indexByte (idx : Index) : truncIndex (indexByte idx) = idx := by
  apply BitVec.eq_of_toNat_eq
  simp only [truncIndex, BitVec.toNat_setWidth, indexByte_toNat]
  omega

/-- An index's byte always passes the test (R26, R90). -/
theorem isValidIndex_indexByte (idx : Index) : isValidIndex (indexByte idx) = true := by
  rw [isValidIndex_iff_lt, indexByte_toNat]
  exact idx.isLt

theorem indexData_eq_ofNat (idx : Index) : indexData idx = BitVec.ofNat 256 idx.toNat := by
  rw [← indexByte_toNat idx, BitVec.ofNat_toNat]
  rfl

theorem boolData_isValidIndex (b : Byte) :
    boolData (isValidIndex b) = if b.toNat < 64 then 1#256 else 0#256 := by
  by_cases h : b.toNat < 64
  · rw [if_pos h, (isValidIndex_iff_lt b).mpr h]
    rfl
  · rw [if_neg h, isValidIndex_eq_false h]
    rfl

/-- Every index is among the 64 (R40). -/
theorem mem_allIndices (idx : Index) : idx ∈ allIndices :=
  List.mem_map.mpr ⟨idx.toNat, List.mem_range.mpr idx.isLt, by simp⟩

end Sys2Proof.Machine

/-! ## The slot view and the two primitives (R21, R110, R112, R113) -/

namespace Sys2Proof.Machine

/-- A nibble is its four bits (R28). -/
theorem nibble_ext {v w : Nibble} (h : ∀ k : Fin 4, v.getLsbD k.val = w.getLsbD k.val) : v = w :=
  BitVec.eq_of_getLsbD_eq fun k hk => h ⟨k, hk⟩

/-- Bit `k` of slot `i` is bit `i` of channel `k` (R21). -/
@[simp] theorem getLsbD_slot (S : Store) (idx : Index) (k : Fin 4) :
    (slot S idx).getLsbD k.val = (S.ch k).getLsbD idx.toNat := by
  unfold slot
  simp only [BitVec.getLsbD_append, BitVec.getLsbD_ofBool]
  fin_cases k <;> simp [Store.ch]

/-- Slots are equal when their bits in the four channels are. -/
theorem slot_eq_iff {S : Store} {idx : Index} {v : Nibble} :
    slot S idx = v ↔ ∀ k : Fin 4, (S.ch k).getLsbD idx.toNat = v.getLsbD k.val := by
  constructor
  · rintro rfl k
    rw [getLsbD_slot]
  · intro h
    exact nibble_ext fun k => by rw [getLsbD_slot, h k]

/-- A slot's value weighs its four bits 1, 2, 4 and 8 (R21). -/
theorem slot_toNat (S : Store) (idx : Index) :
    (slot S idx).toNat
      = (S.ch0.getLsbD idx.toNat).toNat + 2 * (S.ch1.getLsbD idx.toNat).toNat
        + 4 * (S.ch2.getLsbD idx.toNat).toNat + 8 * (S.ch3.getLsbD idx.toNat).toNat := by
  unfold slot
  generalize S.ch0.getLsbD idx.toNat = b0, S.ch1.getLsbD idx.toNat = b1,
    S.ch2.getLsbD idx.toNat = b2, S.ch3.getLsbD idx.toNat = b3
  revert b0 b1 b2 b3
  decide

/-- Masking with `1 << i` and shifting down by `i` leaves the one bit `i`, then moved to weight
`2^k` (R41). -/
theorem contribution_eq_bit (S : Store) (idx : Index) (k : Fin 4) :
    contribution S idx k
      = (BitVec.ofBool ((S.ch k).getLsbD idx.toNat)).setWidth 64 <<< k.val := by
  unfold contribution slotMask shiftOf
  congr 1
  apply BitVec.eq_of_getLsbD_eq
  intro j hj
  rcases Nat.eq_zero_or_pos j with rfl | hpos
  · simp [idx.isLt]
  · simp [hpos.ne']

/-- The packed gather reads exactly the slot view (R41, R110). -/
theorem gather_eq_slot (S : Store) (idx : Index) : gather S idx = slot S idx := by
  simp only [gather, contribution_eq_bit, slot, Store.ch]
  generalize S.ch0.getLsbD idx.toNat = b0, S.ch1.getLsbD idx.toNat = b1,
    S.ch2.getLsbD idx.toNat = b2, S.ch3.getLsbD idx.toNat = b3
  revert b0 b1 b2 b3
  decide

theorem slotRead_eq_slot (idx : Index) (s : State) : slotRead idx s = slot s.store idx :=
  gather_eq_slot s.store idx

/-- The 64-bit word of bit `k` of a nibble. -/
theorem nibbleBit_eq_ofBool (v : Nibble) (k : Fin 4) :
    nibbleBit v k = (BitVec.ofBool (v.getLsbD k.val)).setWidth 64 := by
  revert v k
  decide

/-- The bits of a written store: bit `i` of channel `k` is bit `k` of the nibble, and every other
bit is kept (R42, R113, R124). -/
theorem getLsbD_scatter (S : Store) (idx : Index) (v : Nibble) (k : Fin 4) {j : Nat} (hj : j < 64) :
    ((scatter S idx v).ch k).getLsbD j
      = if j = idx.toNat then v.getLsbD k.val else (S.ch k).getLsbD j := by
  rw [ch_scatter, nibbleBit_eq_ofBool]
  unfold slotMask shiftOf
  rcases Nat.lt_trichotomy j idx.toNat with h | rfl | h
  · simp [hj, h, h.ne]
  · simp [hj]
  · simp [hj, h.ne', Nat.not_lt.mpr h.le, Nat.sub_ne_zero_of_lt h]

/-- Writing one slot changes the slot view there and nowhere else (R126). -/
theorem slot_scatter (S : Store) (idx : Index) (v : Nibble) (j : Index) :
    slot (scatter S idx v) j = if j = idx then v else slot S j := by
  rw [slot_eq_iff]
  intro k
  rw [getLsbD_scatter S idx v k j.isLt]
  by_cases h : j = idx
  · rw [if_pos h, if_pos (congrArg BitVec.toNat h)]
  · rw [if_neg h, if_neg (fun hn => h (BitVec.eq_of_toNat_eq hn)), getLsbD_slot]

@[simp] theorem slot_zero (idx : Index) : slot Store.zero idx = 0#4 :=
  slot_eq_iff.mpr fun k => by simp

/-- Word `k` of a fill is all ones or zero (R112). -/
theorem ch_splatStore_eq_ite (v : Nibble) (k : Fin 4) :
    (splatStore v).ch k = if v.getLsbD k.val then Config.allOnes else 0#64 := by
  rw [ch_splatStore, nibbleBit_eq_ofBool]
  cases v.getLsbD k.val <;> decide

@[simp] theorem slot_splatStore (v : Nibble) (idx : Index) : slot (splatStore v) idx = v := by
  rw [slot_eq_iff]
  intro k
  have hone : Config.allOnes.getLsbD idx.toNat = true := by
    revert idx
    decide
  rw [ch_splatStore_eq_ite]
  cases v.getLsbD k.val <;> simp [hone]

/-- A store is its 64 slots (R21, R22). -/
theorem store_ext_slot {S T : Store} (h : ∀ idx, slot S idx = slot T idx) : S = T := by
  apply Store.ext_ch
  intro k
  apply BitVec.eq_of_getLsbD_eq
  intro j hj
  have hbit : (S.ch k).getLsbD (BitVec.ofNat 6 j).toNat
      = (T.ch k).getLsbD (BitVec.ofNat 6 j).toNat := by
    rw [← getLsbD_slot, h, getLsbD_slot]
  rwa [BitVec.toNat_ofNat, Nat.mod_eq_of_lt hj] at hbit

/-- The store with the given slots: bit `i` of word `k` is bit `k` of the value at `i` (R21). -/
def storeOfSlots (values : SlotArray) : Store :=
  Store.tabulate fun k => BitVec.ofFnLE fun n : Fin 64 => (values (BitVec.ofFin n)).getLsbD k.val

@[simp] theorem slot_storeOfSlots (values : SlotArray) (idx : Index) :
    slot (storeOfSlots values) idx = values idx := by
  rw [slot_eq_iff]
  intro k
  rw [storeOfSlots, ch_tabulate, BitVec.getLsbD_ofFnLE, dif_pos idx.isLt]
  rfl

/-- Bit `64k + i` of the `CHANS` data is bit `i` of channel `k` (R121). -/
theorem getLsbD_channelsData (S : Store) (k : Fin 4) {i : Nat} (hi : i < 64) :
    (channelsData S).getLsbD (64 * k.val + i) = (S.ch k).getLsbD i := by
  unfold channelsData
  simp only [BitVec.getLsbD_append]
  fin_cases k <;> grind [Store.ch]

/-- The `CHANS` data is the array's: bit `64k + i` is bit `k` of slot `i` (R21, R68). -/
theorem channelsData_eq_arrayChannels (S : Store) : channelsData S = arrayChannels (slot S) := by
  apply BitVec.eq_of_getLsbD_eq
  intro n hn
  have hk : n / 64 < 4 := by omega
  have hi : n % 64 < 64 := Nat.mod_lt _ (by decide)
  have hsplit : n = 64 * (n / 64) + n % 64 := (Nat.div_add_mod n 64).symm
  calc (channelsData S).getLsbD n
      = (channelsData S).getLsbD (64 * (n / 64) + n % 64) := by rw [← hsplit]
    _ = (S.ch ⟨n / 64, hk⟩).getLsbD (n % 64) := getLsbD_channelsData S ⟨n / 64, hk⟩ hi
    _ = (slot S (BitVec.ofNat 6 (n % 64))).getLsbD (n / 64) := by
        rw [getLsbD_slot S _ ⟨n / 64, hk⟩, BitVec.toNat_ofNat, Nat.mod_eq_of_lt hi]
    _ = (arrayChannels (slot S)).getLsbD n := by
        rw [arrayChannels, BitVec.getLsbD_ofFnLE, dif_pos hn]

end Sys2Proof.Machine

/-! ## The meaning of each command, on the slot view

One equation per command and per side of its range test, in the terms of the rules: slots, and
comparisons with 64. -/

namespace Sys2Proof.Machine

variable (idx : Index) (b : Byte) (v : Nibble) (s : State)

theorem exec_default : exec .default s = .next ((writeStore Store.zero s).answer .ok 0#256) := rfl

theorem exec_splat :
    exec (.splat v) s = .next ((writeStore (splatStore v) s).answer .ok 0#256) := rfl

theorem exec_get : exec (.get idx) s = .next (s.answer .ok ((slot s.store idx).setWidth 256)) := by
  rw [← slotRead_eq_slot]
  rfl

theorem exec_set : exec (.set idx v) s = .next ((slotWrite idx v s).answer .ok 0#256) := rfl

theorem exec_chans : exec .chans s = .next (s.answer .ok (channelsData s.store)) := rfl

theorem exec_idxbyte :
    exec (.idxbyte idx) s = .next (s.answer .ok (BitVec.ofNat 256 idx.toNat)) := by
  rw [← indexData_eq_ofNat]
  rfl

theorem exec_idxvalid :
    exec (.idxvalid b) s = .next (s.answer .ok (if b.toNat < 64 then 1#256 else 0#256)) := by
  rw [← boolData_isValidIndex]
  rfl

section InRange

variable {b}

theorem exec_getc_of_lt (h : b.toNat < 64) :
    exec (.getc b) s = .next (s.answer .ok ((slot s.store (indexOfByte b)).setWidth 256)) := by
  rw [← slotRead_eq_slot, ← truncIndex_eq_indexOfByte]
  exact execGetc_valid ((isValidIndex_iff_lt b).mpr h) s

theorem exec_setc_of_lt (h : b.toNat < 64) :
    exec (.setc b v) s = .next ((slotWrite (indexOfByte b) v s).answer .ok 0#256) := by
  rw [← truncIndex_eq_indexOfByte]
  exact execSetc_valid ((isValidIndex_iff_lt b).mpr h) v s

theorem exec_getu_of_lt (h : b.toNat < 64) :
    exec (.getu b) s = .next (s.answer .ok ((slot s.store (indexOfByte b)).setWidth 256)) := by
  rw [← slotRead_eq_slot, ← truncIndex_eq_indexOfByte]
  exact execGetu_inRange ((inRange_iff_lt b).mpr h) s

theorem exec_setu_of_lt (h : b.toNat < 64) :
    exec (.setu b v) s = .next ((slotWrite (indexOfByte b) v s).answer .ok 0#256) := by
  rw [← truncIndex_eq_indexOfByte]
  exact execSetu_inRange ((inRange_iff_lt b).mpr h) v s

theorem exec_idxtry_of_lt (h : b.toNat < 64) :
    exec (.idxtry b) s = .next (s.answer .ok (BitVec.ofNat 256 b.toNat)) := by
  rw [BitVec.ofNat_toNat]
  exact execIdxtry_valid ((isValidIndex_iff_lt b).mpr h) s

theorem exec_idxu_of_lt (h : b.toNat < 64) :
    exec (.idxu b) s = .next (s.answer .ok (BitVec.ofNat 256 b.toNat)) := by
  rw [BitVec.ofNat_toNat]
  exact execIdxu_inRange ((inRange_iff_lt b).mpr h) s

end InRange

section OutOfRange

variable {b}

theorem exec_getc_of_not_lt (h : ¬ b.toNat < 64) :
    exec (.getc b) s = .next (s.answer .invalidIndex 0#256) :=
  execGetc_invalid (isValidIndex_eq_false h) s

theorem exec_setc_of_not_lt (h : ¬ b.toNat < 64) :
    exec (.setc b v) s = .next (s.answer .invalidIndex 0#256) :=
  execSetc_invalid (isValidIndex_eq_false h) v s

theorem exec_getu_of_not_lt (h : ¬ b.toNat < 64) :
    exec (.getu b) s = .fault (.getuUndefined b) :=
  execGetu_undefined (inRange_eq_false h) s

theorem exec_setu_of_not_lt (h : ¬ b.toNat < 64) :
    exec (.setu b v) s = .fault (.setuUndefined b v) :=
  execSetu_undefined (inRange_eq_false h) v s

theorem exec_idxtry_of_not_lt (h : ¬ b.toNat < 64) :
    exec (.idxtry b) s = .next (s.answer .invalidIndex 0#256) :=
  execIdxtry_invalid (isValidIndex_eq_false h) s

theorem exec_idxu_of_not_lt (h : ¬ b.toNat < 64) :
    exec (.idxu b) s = .fault (.idxuUndefined b) :=
  execIdxu_undefined (inRange_eq_false h) s

end OutOfRange

end Sys2Proof.Machine

/-! ## Frames: what a command leaves unchanged (R23, R46) -/

namespace Sys2Proof.Machine

/-- Answering is all that happens beside the store. -/
theorem answeredOnce_answer (s : State) (st : Status) (d : Data) :
    AnsweredOnce s (s.answer st d) st d :=
  ⟨rfl, rfl, rfl⟩

/-- A command that writes all four words and answers changes nothing else. -/
theorem answeredOnce_answer_writeStore (S : Store) (s : State) (st : Status) (d : Data) :
    AnsweredOnce s ((writeStore S s).answer st d) st d :=
  ⟨rfl, rfl, rfl⟩

/-- A command that writes one slot and answers changes nothing else. -/
theorem answeredOnce_answer_slotWrite (idx : Index) (v : Nibble) (s : State) (st : Status)
    (d : Data) : AnsweredOnce s ((slotWrite idx v s).answer st d) st d :=
  ⟨rfl, rfl, rfl⟩

/-- What a command of the index family does is fixed by its operand: one answer, the same in every
state, or one fault, the same in every state (R23). -/
theorem exec_indexFamily {i : Instr} (hi : isIndexFamily i = true) :
    (∃ st d, ∀ s, exec i s = .next (s.answer st d)) ∨ ∃ f, ∀ s, exec i s = .fault f := by
  cases i with
  | idxtry b =>
    by_cases h : b.toNat < 64
    · exact .inl ⟨_, _, fun s => exec_idxtry_of_lt s h⟩
    · exact .inl ⟨_, _, fun s => exec_idxtry_of_not_lt s h⟩
  | idxu b =>
    by_cases h : b.toNat < 64
    · exact .inl ⟨_, _, fun s => exec_idxu_of_lt s h⟩
    · exact .inr ⟨_, fun s => exec_idxu_of_not_lt s h⟩
  | idxbyte idx => exact .inl ⟨_, _, exec_idxbyte idx⟩
  | idxvalid b => exact .inl ⟨_, _, exec_idxvalid b⟩
  | default | splat | get | set | getc | setc | getu | setu | chans => cases hi

/-- A command that writes no channel word either answers and does nothing else, or faults (R23). -/
theorem exec_of_not_writesStore {i : Instr} (hi : writesStore i = false) (s : State) :
    (∃ st d, exec i s = .next (s.answer st d)) ∨ ∃ f, exec i s = .fault f := by
  cases i with
  | get idx => exact .inl ⟨_, _, exec_get idx s⟩
  | getc b =>
    by_cases h : b.toNat < 64
    · exact .inl ⟨_, _, exec_getc_of_lt s h⟩
    · exact .inl ⟨_, _, exec_getc_of_not_lt s h⟩
  | getu b =>
    by_cases h : b.toNat < 64
    · exact .inl ⟨_, _, exec_getu_of_lt s h⟩
    · exact .inr ⟨_, exec_getu_of_not_lt s h⟩
  | chans => exact .inl ⟨_, _, exec_chans s⟩
  | idxtry | idxu | idxbyte | idxvalid =>
    exact (exec_indexFamily rfl).imp (fun ⟨st, d, h⟩ => ⟨st, d, h s⟩) (fun ⟨f, h⟩ => ⟨f, h s⟩)
  | default | splat | set | setc | setu => cases hi

end Sys2Proof.Machine

/-! ## The decoder on an encoded word (R61 to R65) -/

namespace Sys2Proof

theorem opField_encode (i : Instr) : opField (encode i) = i.opcode.bits := by
  apply BitVec.eq_of_getLsbD_eq
  intro j hj
  interval_cases j <;> simp [opField, encode]

theorem byteField_encode (i : Instr) : byteField (encode i) = i.byteOperand := by
  apply BitVec.eq_of_getLsbD_eq
  intro j hj
  interval_cases j <;> simp [byteField, encode]

theorem nibbleField_encode (i : Instr) : nibbleField (encode i) = i.nibbleOperand := by
  apply BitVec.eq_of_getLsbD_eq
  intro j hj
  interval_cases j <;> simp [nibbleField, encode]

@[simp] theorem Opcode.ofBits_bits (op : Opcode) : Opcode.ofBits op.bits = some op := by
  cases op <;> rfl

/-- A row's mask covers the must-be-zero fields of its format (R62, R64). -/
theorem Opcode.maskWord_and_zeroMask (op : Opcode) :
    op.maskWord &&& op.format.zeroMask = op.format.zeroMask := by
  cases op <;> rfl

/-- A row's match word is zero in those fields (R62, R64). -/
theorem Opcode.matchWord_and_zeroMask (op : Opcode) :
    op.matchWord &&& op.format.zeroMask = 0#16 := by
  cases op <;> rfl

/-- An encoded word passes the must-be-zero test, because it matches its row (R62, R69). -/
theorem encode_and_zeroMask (i : Instr) : encode i &&& i.opcode.format.zeroMask = 0#16 := by
  have hrow : encode i &&& i.opcode.maskWord = i.opcode.matchWord := Laws.encode_matches_row i
  rw [← Opcode.maskWord_and_zeroMask, ← BitVec.and_assoc, hrow, Opcode.matchWord_and_zeroMask]

theorem Instr.isUnchecked_opcode (i : Instr) : i.opcode.isUnchecked = i.isUnchecked := by
  cases i <;> rfl

/-- Building a command of its own opcode and operand fields gives it back (R62, R63). -/
theorem Instr.build_operands (i : Instr) :
    i.opcode.build i.byteOperand i.nibbleOperand = i := by
  cases i with
  | get idx | idxbyte idx | set idx =>
    simp [Instr.opcode, Instr.byteOperand, Instr.nibbleOperand, Opcode.build]
  | default | splat | getc | setc | getu | setu | chans | idxtry | idxu | idxvalid => rfl

/-- The decoder reads the word of a command that exists on the block as that command (R65, R70). -/
theorem decode_encode {exposed : Bool} {i : Instr} (hi : i.WellFormed exposed) :
    decode exposed (encode i) = .ok i := by
  have hexposed : ¬ (i.opcode.isUnchecked && !exposed) = true := by
    rw [Instr.isUnchecked_opcode]
    cases exposed <;> simp_all [Instr.WellFormed]
  simp only [decode, opField_encode, Opcode.ofBits_bits, encode_and_zeroMask, ne_eq,
    not_true_eq_false, if_false, if_neg hexposed, byteField_encode, nibbleField_encode,
    Instr.build_operands]

end Sys2Proof

/-! ## Runs of the host's words (R60, R203) -/

namespace Sys2Proof.Machine

/-- One pending command word is one run of the command it decodes to (R65). -/
theorem step_of_decode {s : State} {cw : CommandWord} {rest : List HostInput} {i : Instr}
    (h : s.input = .command cw :: rest) (hd : decode s.uncheckedExposed cw = .ok i) :
    step s = exec i (s.withInput rest) := by
  simp only [step, fetch_command h hd]

/-- A run whose first step takes the first input goes on as the run of the rest (R203). -/
theorem runAll_of_step {s t : State} {x : HostInput} {rest : List HostInput}
    (hs : s.input = x :: rest) (ht : t.input = rest) (hstep : step s = .next t) :
    runAll s = runAll t := by
  rw [runAll, runAll, hs, ht, List.length_cons, run_succ_of_next hstep]

/-- The word `SET i, v_i`, as the host sends it. -/
def setInput (values : SlotArray) (idx : Index) : HostInput :=
  .command (encode (.set idx (values idx)))

/-- The store after the slots of a list were written in its order. -/
def writeSlots (values : SlotArray) (order : List Index) (S : Store) : Store :=
  order.foldl (fun T idx => scatter T idx (values idx)) S

/-- Taking and running one `SET` word (R60, R116). -/
theorem step_setInput (values : SlotArray) (idx : Index) (rest : List HostInput) (s : State) :
    step (s.withInput (setInput values idx :: rest))
      = .next (((slotWrite idx (values idx) s).answer .ok 0#256).withInput rest) := by
  have hwf : (Instr.set idx (values idx)).WellFormed s.uncheckedExposed := nofun
  exact step_of_decode (s := s.withInput (setInput values idx :: rest)) rfl (decode_encode hwf)

/-- A run of `SET` words ends, with its slots written in the order of the words. -/
theorem runAll_setInputs (values : SlotArray) (order : List Index) (s : State) :
    ∃ t, runAll (s.withInput (order.map (setInput values))) = .next t
      ∧ t.store = writeSlots values order s.store := by
  induction order generalizing s with
  | nil => exact ⟨_, run_zero _, rfl⟩
  | cons idx rest ih =>
    obtain ⟨t, hrun, hstore⟩ := ih ((slotWrite idx (values idx) s).answer .ok 0#256)
    refine ⟨t, ?_, hstore⟩
    rw [List.map_cons,
      runAll_of_step (withInput_input s _) (withInput_input _ _) (step_setInput values idx _ s)]
    exact hrun

/-- Each slot of the list holds its value whatever the order of the writes, since one slot is always
written with the same value; the others keep theirs (R25). -/
theorem slot_writeSlots (values : SlotArray) (order : List Index) (S : Store) (j : Index) :
    slot (writeSlots values order S) j = if j ∈ order then values j else slot S j := by
  induction order generalizing S with
  | nil => rfl
  | cons idx rest ih =>
    have htail : slot (writeSlots values (idx :: rest) S) j
        = if j ∈ rest then values j else slot (scatter S idx (values idx)) j := ih _
    rw [htail, slot_scatter]
    by_cases hrest : j ∈ rest
    · simp [hrest]
    · by_cases hidx : j = idx
      · simp [hidx]
      · simp [hrest, hidx]

end Sys2Proof.Machine

/-! ## The optional index (R27) -/

namespace Sys2Proof.Machine

theorem noneIndexPattern_toNat :
    Config.noneIndexPattern.toNat = 64 + Config.noneIndexChoice.val := by
  rw [Config.noneIndexPattern, BitVec.toNat_ofNat]
  have := Config.noneIndexChoice.isLt
  omega

/-- The pattern is one of the 192 spare ones, whichever it is (R8, R27). -/
theorem noneIndexPattern_ge : 64 ≤ Config.noneIndexPattern.toNat := by
  rw [noneIndexPattern_toNat]
  exact Nat.le_add_right _ _

theorem isValidIndex_noneIndexPattern : isValidIndex Config.noneIndexPattern = false :=
  isValidIndex_eq_false (Nat.not_lt.mpr noneIndexPattern_ge)

/-- The range test tells the pattern from every index's byte. -/
theorem indexByte_ne_noneIndexPattern (idx : Index) : indexByte idx ≠ Config.noneIndexPattern := by
  intro h
  have hvalid := isValidIndex_indexByte idx
  rw [h, isValidIndex_noneIndexPattern] at hvalid
  cases hvalid

/-- A byte below 64 is read as its index. -/
theorem readOptionalIndex_indexByte (idx : Index) :
    readOptionalIndex (indexByte idx) = some (some idx) := by
  simp only [readOptionalIndex, isValidIndex_indexByte, if_true, truncIndex_indexByte]

/-- The spare pattern is read as "no index". -/
theorem readOptionalIndex_noneIndexPattern :
    readOptionalIndex Config.noneIndexPattern = some none := by
  simp only [readOptionalIndex, isValidIndex_noneIndexPattern, Bool.false_eq_true, if_false,
    if_true]

end Sys2Proof.Machine

/-! ## The statements settled -/

namespace Sys2Proof.Proofs

open Sys2Proof Sys2Proof.Machine

/-- Settles O51. The run writes the slots in the given order, every index is in the order, and a
store is its slots. -/
theorem everyStoreIsReachable : Obligations.EveryStoreIsReachable := by
  intro s values order horder
  obtain ⟨t, hrun, hstore⟩ := runAll_setInputs values order s
  have hslots (idx : Index) : slot t.store idx = values idx := by
    rw [hstore, slot_writeSlots, if_pos (horder.mem_iff.mpr (mem_allIndices idx))]
  exact ⟨t, hrun, hslots, fun T hT => store_ext_slot fun idx => by rw [hT, hslots]⟩

/-- Settles O52, by the command, and by the range test of each command that takes a byte. -/
theorem engineRefinesSlotArray : Obligations.EngineRefinesSlotArray := by
  intro i s
  cases i with
  | default =>
    exact ⟨_, exec_default s, funext slot_zero, answeredOnce_answer_writeStore ..⟩
  | splat v =>
    exact ⟨_, exec_splat v s, funext (slot_splatStore v), answeredOnce_answer_writeStore ..⟩
  | get idx => exact ⟨_, exec_get idx s, rfl, answeredOnce_answer ..⟩
  | set idx v =>
    exact ⟨_, exec_set idx v s, funext (slot_scatter _ idx v), answeredOnce_answer_slotWrite ..⟩
  | getc b =>
    by_cases h : b.toNat < 64
    · simp only [arrayExec, if_pos h]
      exact ⟨_, exec_getc_of_lt s h, rfl, answeredOnce_answer ..⟩
    · simp only [arrayExec, if_neg h]
      exact ⟨_, exec_getc_of_not_lt s h, rfl, answeredOnce_answer ..⟩
  | setc b v =>
    by_cases h : b.toNat < 64
    · simp only [arrayExec, if_pos h]
      exact ⟨_, exec_setc_of_lt v s h, funext (slot_scatter _ _ v),
        answeredOnce_answer_slotWrite ..⟩
    · simp only [arrayExec, if_neg h]
      exact ⟨_, exec_setc_of_not_lt v s h, rfl, answeredOnce_answer ..⟩
  | getu b =>
    by_cases h : b.toNat < 64
    · simp only [arrayExec, if_pos h]
      exact ⟨_, exec_getu_of_lt s h, rfl, answeredOnce_answer ..⟩
    · simp only [arrayExec, if_neg h]
      exact ⟨_, exec_getu_of_not_lt s h⟩
  | setu b v =>
    by_cases h : b.toNat < 64
    · simp only [arrayExec, if_pos h]
      exact ⟨_, exec_setu_of_lt v s h, funext (slot_scatter _ _ v),
        answeredOnce_answer_slotWrite ..⟩
    · simp only [arrayExec, if_neg h]
      exact ⟨_, exec_setu_of_not_lt v s h⟩
  | chans =>
    simp only [arrayExec, ← channelsData_eq_arrayChannels]
    exact ⟨_, exec_chans s, rfl, answeredOnce_answer ..⟩
  | idxtry b =>
    by_cases h : b.toNat < 64
    · simp only [arrayExec, if_pos h]
      exact ⟨_, exec_idxtry_of_lt s h, rfl, answeredOnce_answer ..⟩
    · simp only [arrayExec, if_neg h]
      exact ⟨_, exec_idxtry_of_not_lt s h, rfl, answeredOnce_answer ..⟩
  | idxu b =>
    by_cases h : b.toNat < 64
    · simp only [arrayExec, if_pos h]
      exact ⟨_, exec_idxu_of_lt s h, rfl, answeredOnce_answer ..⟩
    · simp only [arrayExec, if_neg h]
      exact ⟨_, exec_idxu_of_not_lt s h⟩
  | idxbyte idx => exact ⟨_, exec_idxbyte idx s, rfl, answeredOnce_answer ..⟩
  | idxvalid b => exact ⟨_, exec_idxvalid b s, rfl, answeredOnce_answer ..⟩

/-- Settles O19. -/
theorem readingCommandsLeaveTheStore : Obligations.ReadingCommandsLeaveTheStore := by
  intro i s t hi ht
  rcases exec_of_not_writesStore hi s with ⟨st, d, h⟩ | ⟨f, h⟩
  · obtain rfl : s.answer st d = t := Host.Outcome.next.inj (h.symm.trans ht)
    exact ⟨rfl, st, d, answeredOnce_answer s st d⟩
  · cases h.symm.trans ht

/-- Settles O28: the answer or fault of the family does not depend on the state at all. -/
theorem indexFamilyIgnoresTheStore : Obligations.IndexFamilyIgnoresTheStore := by
  intro i s S hi
  rcases exec_indexFamily hi with ⟨st, d, h⟩ | ⟨f, h⟩
  · refine ⟨fun t ht => ?_, fun g hg => (nomatch (h s).symm.trans hg)⟩
    obtain rfl : s.answer st d = t := Host.Outcome.next.inj ((h s).symm.trans ht)
    exact ⟨rfl, h (writeStore S s)⟩
  · refine ⟨fun t ht => (nomatch (h s).symm.trans ht), fun g hg => ?_⟩
    exact (h (writeStore S s)).trans ((h s).symm.trans hg)

/-- Settles O29. -/
theorem slotReadIsTheSlotView : Obligations.SlotReadIsTheSlotView := fun s idx =>
  ⟨slotRead_eq_slot idx s, getLsbD_slot s.store idx, slot_toNat s.store idx⟩

/-- Settles O30: `storeOfSlots` is such a store, and a store is its slots. -/
theorem slotViewIsABijection : Obligations.SlotViewIsABijection := fun values =>
  ⟨storeOfSlots values, slot_storeOfSlots values,
    fun _ hT => store_ext_slot fun idx => by rw [hT, slot_storeOfSlots]⟩

/-- Settles O58, by whether there is an index; the pattern is used only as a byte of 64 or more. -/
theorem optionalIndexRoundTrip : Obligations.OptionalIndexRoundTrip := by
  refine ⟨fun o => ?_, noneIndexPattern_ge, indexByte_ne_noneIndexPattern⟩
  cases o with
  | some idx => exact readOptionalIndex_indexByte idx
  | none => exact readOptionalIndex_noneIndexPattern

end Sys2Proof.Proofs

/-! ## The bytes of a host (R44, log 11) -/

namespace Sys2Proof.Machine

/-- The lowest channel bit that byte `j` of a channel word holds (log 11). -/
def byteLow (order : ByteOrder) (j : Fin 8) : Nat :=
  match order with
  | .little => 8 * j.val
  | .big => 56 - 8 * j.val

@[simp] theorem length_channelBytes (order : ByteOrder) (w : Channel) :
    (channelBytes order w).length = 8 := by
  cases order <;> rfl

theorem getElem?_channelBytes (order : ByteOrder) (w : Channel) (j : Fin 8) :
    (channelBytes order w)[j.val]? = some (w.extractLsb' (byteLow order j) 8) := by
  cases order with
  | little => simp [channelBytes, byteLow]
  | big =>
    have hlow : 8 * (7 - j.val) = 56 - 8 * j.val := by omega
    simp [channelBytes, byteLow, hlow]

/-- In either order the eight bytes cover the 64 bits of the word. -/
theorem exists_byteLow_add (order : ByteOrder) {i : Nat} (hi : i < 64) :
    ∃ (j : Fin 8) (r : Nat), r < 8 ∧ i = byteLow order j + r := by
  cases order with
  | little => exact ⟨⟨i / 8, by omega⟩, i % 8, by omega, by simp only [byteLow]; omega⟩
  | big => exact ⟨⟨7 - i / 8, by omega⟩, i % 8, by omega, by simp only [byteLow]; omega⟩

/-- Equal bytes come from equal words: each bit of a word is a bit of one of its bytes. -/
theorem channelBytes_injective (order : ByteOrder) : (channelBytes order).Injective := by
  intro w x h
  refine BitVec.eq_of_getLsbD_eq fun i hi => ?_
  obtain ⟨j, r, hr, rfl⟩ := exists_byteLow_add order hi
  have hbyte : w.extractLsb' (byteLow order j) 8 = x.extractLsb' (byteLow order j) 8 :=
    Option.some.inj (by rw [← getElem?_channelBytes, ← getElem?_channelBytes, h])
  simpa [hr] using congrArg (·.getLsbD r) hbyte

@[simp] theorem length_storeBytes (order : ByteOrder) (S : Store) :
    (storeBytes order S).length = 32 := by
  simp [storeBytes]

theorem getElem?_channelBytes_append_left (order : ByteOrder) (w : Channel) (l : List Byte)
    (j : Fin 8) : (channelBytes order w ++ l)[j.val]? = (channelBytes order w)[j.val]? :=
  List.getElem?_append_left (by simp)

/-- The bytes of one channel word fill eight places. -/
theorem getElem?_channelBytes_append_add (order : ByteOrder) (w : Channel) (l : List Byte)
    (n : Nat) : (channelBytes order w ++ l)[8 + n]? = l[n]? := by
  simp [List.getElem?_append_right]

/-- The bytes of channel `k` stand from byte `8k` on: `k` channels of eight bytes come before. -/
theorem getElem?_storeBytes (order : ByteOrder) (S : Store) (k : Fin 4) (j : Fin 8) :
    (storeBytes order S)[8 * k.val + j.val]? = (channelBytes order (S.ch k))[j.val]? := by
  have h16 : 8 * 2 + j.val = 8 + (8 + j.val) := by omega
  have h24 : 8 * 3 + j.val = 8 + (8 + (8 + j.val)) := by omega
  simp only [storeBytes, List.append_assoc]
  match k with
  | 0 => simp only [Fin.val_zero, Nat.mul_zero, Nat.zero_add, getElem?_channelBytes_append_left,
      Store.ch]
  | 1 => exact (getElem?_channelBytes_append_add ..).trans (getElem?_channelBytes_append_left ..)
  | 2 =>
    refine (congrArg _ h16).trans ?_
    simp only [getElem?_channelBytes_append_add, getElem?_channelBytes_append_left, Store.ch]
  | 3 =>
    refine (congrArg _ h24).trans ?_
    simp only [getElem?_channelBytes_append_add, Store.ch]

/-- Equal bytes come from equal stores: the bytes are four blocks of one length, and a store is its
four channel words. -/
theorem storeBytes_injective (order : ByteOrder) : (storeBytes order).Injective := by
  intro S T h
  obtain ⟨h012, h3⟩ := List.append_inj' h (by simp)
  obtain ⟨h01, h2⟩ := List.append_inj' h012 (by simp)
  obtain ⟨h0, h1⟩ := List.append_inj' h01 (by simp)
  refine Store.ext_ch fun k => channelBytes_injective order ?_
  fin_cases k
  exacts [h0, h1, h2, h3]

end Sys2Proof.Machine

namespace Sys2Proof.Proofs

open Sys2Proof Sys2Proof.Machine

/-- Settles O59. -/
theorem storeBytesDetermineTheStore : Obligations.StoreBytesDetermineTheStore := by
  intro order S T
  refine ⟨length_storeBytes order S, fun k j => ?_, fun h => storeBytes_injective order h⟩
  rw [getElem?_storeBytes, getElem?_channelBytes]
  cases order <;> rfl

end Sys2Proof.Proofs

/-! # Proofs: the command word, its text and one step

SUPPORT. The decoder said once as an equivalence with the rows of R64, the words it refuses, what a
step keeps and what the assembler reads back; then the statements they settle. -/

/-! ## Opcode fields and rows of the table (R61, R62, R64) -/

namespace Sys2Proof

theorem Opcode.ofBits_eq_some_iff {bits : BitVec 4} {op : Opcode} :
    Opcode.ofBits bits = some op ↔ bits = op.bits := by
  refine ⟨fun h => ?_, fun h => h ▸ Opcode.ofBits_bits op⟩
  revert bits
  cases op <;> decide

/-- The reserved opcodes (R69 case 1). -/
theorem Opcode.ofBits_eq_none_iff {bits : BitVec 4} :
    Opcode.ofBits bits = none ↔ bits = 0x0#4 ∨ bits = 0xE#4 ∨ bits = 0xF#4 := by
  revert bits
  decide

theorem Opcode.bits_injective : Opcode.bits.Injective := fun op op' h =>
  Option.some.inj (by rw [← Opcode.ofBits_bits, h, Opcode.ofBits_bits])

@[simp] theorem opField_and (w x : CommandWord) : opField (w &&& x) = opField w &&& opField x :=
  BitVec.extractLsb'_and

@[simp] theorem byteField_and (w x : CommandWord) :
    byteField (w &&& x) = byteField w &&& byteField x :=
  BitVec.extractLsb'_and

@[simp] theorem nibbleField_and (w x : CommandWord) :
    nibbleField (w &&& x) = nibbleField w &&& nibbleField x :=
  BitVec.extractLsb'_and

/-- A word is its three fields (R61). -/
theorem word_eq_iff_fields {w x : CommandWord} :
    w = x ↔ opField w = opField x ∧ byteField w = byteField x ∧ nibbleField w = nibbleField x := by
  refine ⟨fun h => h ▸ ⟨rfl, rfl, rfl⟩, fun ⟨hop, hbyte, hnibble⟩ => ?_⟩
  have hsplit (y : CommandWord) (j : Nat) (hj : j < 16) : y.getLsbD j
      = if j < 4 then (nibbleField y).getLsbD j
        else if j < 12 then (byteField y).getLsbD (j - 4) else (opField y).getLsbD (j - 12) := by
    simp only [opField, byteField, nibbleField, BitVec.getLsbD_extractLsb']
    grind
  refine BitVec.eq_of_getLsbD_eq fun j hj => ?_
  rw [hsplit w j hj, hsplit x j hj, hop, hbyte, hnibble]

/-! The fields of the table's columns. -/

namespace Opcode

variable (op : Opcode)

@[simp] theorem opField_maskWord : opField op.maskWord = BitVec.allOnes 4 := by cases op <;> rfl

@[simp] theorem byteField_maskWord : byteField op.maskWord = byteField op.format.zeroMask := by
  cases op <;> rfl

@[simp] theorem nibbleField_maskWord :
    nibbleField op.maskWord = nibbleField op.format.zeroMask := by
  cases op <;> rfl

@[simp] theorem opField_zeroMask : opField op.format.zeroMask = 0#4 := by cases op <;> rfl

@[simp] theorem opField_matchWord : opField op.matchWord = op.bits := by cases op <;> rfl

@[simp] theorem byteField_matchWord : byteField op.matchWord = 0#8 := by cases op <;> rfl

@[simp] theorem nibbleField_matchWord : nibbleField op.matchWord = 0#4 := by cases op <;> rfl

@[simp] theorem opcode_build (b : Byte) (v : Nibble) : (op.build b v).opcode = op := by
  cases op <;> rfl

end Opcode

/-- A byte whose two high bits are zero is the byte of its low six (R63, R90). -/
theorem indexByte_truncIndex {b : Byte} (h : b &&& Config.indexInvalidMask = 0#8) :
    indexByte (truncIndex b) = b := by
  have hlt : b.toNat < 64 := (Machine.isValidIndex_iff_lt b).mp (beq_iff_eq.mpr h)
  apply BitVec.eq_of_toNat_eq
  rw [Machine.indexByte_toNat, truncIndex, BitVec.toNat_setWidth]
  omega

/-- A format drops of the byte field only bits that must be zero (R62, R63). -/
theorem Opcode.byteOperand_build (op : Opcode) {b : Byte} (v : Nibble)
    (h : b &&& byteField op.format.zeroMask = 0#8) : (op.build b v).byteOperand = b := by
  cases op with
  | default | splat | chans => exact (BitVec.and_allOnes.symm.trans h).symm
  | get | set | idxbyte => exact indexByte_truncIndex h
  | getc | setc | getu | setu | idxtry | idxu | idxvalid => rfl

/-- A format drops of the nibble field only bits that must be zero (R62, R63). -/
theorem Opcode.nibbleOperand_build (op : Opcode) (b : Byte) {v : Nibble}
    (h : v &&& nibbleField op.format.zeroMask = 0#4) : (op.build b v).nibbleOperand = v := by
  cases op with
  | splat | set | setc | setu => rfl
  | default | get | getc | getu | chans | idxtry | idxu | idxbyte | idxvalid =>
    exact (BitVec.and_allOnes.symm.trans h).symm

/-- The must-be-zero test of a format, field by field (R62). -/
theorem and_zeroMask_eq_zero_iff {w : CommandWord} {op : Opcode} :
    w &&& op.format.zeroMask = 0#16
      ↔ byteField w &&& byteField op.format.zeroMask = 0#8
        ∧ nibbleField w &&& nibbleField op.format.zeroMask = 0#4 := by
  rw [word_eq_iff_fields, opField_and, byteField_and, nibbleField_and, Opcode.opField_zeroMask,
    BitVec.and_zero]
  exact and_iff_right rfl

/-- A word matches a row exactly when it has the row's opcode and zeros where the format wants them
(R62, R64). -/
theorem and_maskWord_eq_matchWord_iff {w : CommandWord} {op : Opcode} :
    w &&& op.maskWord = op.matchWord
      ↔ opField w = op.bits ∧ w &&& op.format.zeroMask = 0#16 := by
  rw [word_eq_iff_fields, and_zeroMask_eq_zero_iff]
  simp only [opField_and, byteField_and, nibbleField_and, Opcode.opField_maskWord,
    Opcode.byteField_maskWord, Opcode.nibbleField_maskWord, Opcode.opField_matchWord,
    Opcode.byteField_matchWord, Opcode.nibbleField_matchWord, BitVec.and_allOnes]

/-! ## The decoder, both ways (R65, R69, R70) -/

/-- The decoder's third test catches exactly a command that does not exist on the block (R70). -/
theorem hidden_eq_true_iff {unchecked exposed : Bool} :
    (unchecked && !exposed) = true ↔ ¬ (unchecked = true → exposed = true) := by
  cases unchecked <;> cases exposed <;> decide

/-- A word is a command exactly when it matches a row whose opcode is not hidden, and then it is the
command that row builds of its fields (R64, R65, R70). -/
theorem decode_eq_ok_iff {exposed : Bool} {w : CommandWord} {i : Instr} :
    decode exposed w = .ok i
      ↔ ∃ op : Opcode, w &&& op.maskWord = op.matchWord ∧ (op.isUnchecked = true → exposed = true)
          ∧ op.build (byteField w) (nibbleField w) = i := by
  simp only [and_maskWord_eq_matchWord_iff, ← Opcode.ofBits_eq_some_iff, decode,
    hidden_eq_true_iff]
  cases Opcode.ofBits (opField w) with
  | none => simp
  | some op =>
    by_cases hzero : w &&& op.format.zeroMask = 0#16
    · cases hun : op.isUnchecked <;> cases exposed <;> simp [hzero, hun]
    · simp [hzero]

theorem exists_decode_ok_iff {exposed : Bool} {w : CommandWord} :
    (∃ i, decode exposed w = .ok i)
      ↔ ∃ op : Opcode, w &&& op.maskWord = op.matchWord
          ∧ (op.isUnchecked = true → exposed = true) := by
  simp [decode_eq_ok_iff]

theorem exists_decode_error_iff {exposed : Bool} {w : CommandWord} :
    (∃ e, decode exposed w = .error e) ↔ ¬ ∃ i, decode exposed w = .ok i := by
  cases decode exposed w <;> simp

/-- The command a row builds of a matching word's fields has that word (R61, R64). -/
theorem encode_build {w : CommandWord} {op : Opcode} (hrow : w &&& op.maskWord = op.matchWord) :
    encode (op.build (byteField w) (nibbleField w)) = w := by
  obtain ⟨hop, hzero⟩ := and_maskWord_eq_matchWord_iff.mp hrow
  obtain ⟨hbyte, hnibble⟩ := and_zeroMask_eq_zero_iff.mp hzero
  rw [word_eq_iff_fields, opField_encode, byteField_encode, nibbleField_encode,
    Opcode.opcode_build, Opcode.byteOperand_build op _ hbyte,
    Opcode.nibbleOperand_build op _ hnibble]
  exact ⟨hop.symm, rfl, rfl⟩

/-! ## The illegal words (R69) -/

/-- Masking with a run of ones tests the bits of that run. -/
theorem and_ones_eq_zero_iff {n : Nat} (w : BitVec n) (start len : Nat) :
    w &&& ((BitVec.allOnes len).setWidth n <<< start) = 0#n ↔ w.extractLsb' start len = 0#len := by
  simp only [BitVec.eq_of_getLsbD_eq_iff, BitVec.getLsbD_zero, BitVec.getLsbD_and,
    BitVec.getLsbD_shiftLeft, BitVec.getLsbD_setWidth, BitVec.getLsbD_allOnes,
    BitVec.getLsbD_extractLsb']
  constructor
  · intro hw j hj
    have hbit := hw (start + j)
    have hlt : w.getLsbD (start + j) = true → start + j < n := BitVec.lt_of_getLsbD
    grind
  · intro hw j hj
    have hbit := hw (j - start)
    grind

/-! The must-be-zero test of each format, by the bits of the word (R62). -/

section ZeroMask

variable {w : CommandWord}

theorem and_zeroMask_n : w &&& Format.n.zeroMask = 0#16 ↔ w.extractLsb' 0 12 = 0#12 :=
  and_ones_eq_zero_iff w 0 12

theorem and_zeroMask_v : w &&& Format.v.zeroMask = 0#16 ↔ w.extractLsb' 4 8 = 0#8 :=
  and_ones_eq_zero_iff w 4 8

theorem and_zeroMask_iv : w &&& Format.iv.zeroMask = 0#16 ↔ w.extractLsb' 10 2 = 0#2 :=
  and_ones_eq_zero_iff w 10 2

theorem and_zeroMask_b : w &&& Format.b.zeroMask = 0#16 ↔ w.extractLsb' 0 4 = 0#4 :=
  and_ones_eq_zero_iff w 0 4

theorem and_zeroMask_bv : w &&& Format.bv.zeroMask = 0#16 :=
  BitVec.and_zero

theorem and_zeroMask_i : w &&& Format.i.zeroMask = 0#16
    ↔ w.extractLsb' 10 2 = 0#2 ∧ w.extractLsb' 0 4 = 0#4 := by
  have hsplit : Format.i.zeroMask = Format.iv.zeroMask ||| Format.b.zeroMask := rfl
  rw [hsplit, BitVec.and_or_distrib_left, BitVec.or_eq_zero_iff, and_zeroMask_iv, and_zeroMask_b]

end ZeroMask

/-- The seven cases of R69 are the words that match no row of a command on the block. -/
theorem illegalWord_iff {exposed : Bool} {w : CommandWord} :
    Machine.IllegalWord exposed w
      ↔ ¬ ∃ op : Opcode, w &&& op.maskWord = op.matchWord
          ∧ (op.isUnchecked = true → exposed = true) := by
  rcases hop : Opcode.ofBits (opField w) with _ | op
  · have hno (op : Opcode) : opField w ≠ op.bits := by simp [← Opcode.ofBits_eq_some_iff, hop]
    have hreserved : Machine.IllegalWord exposed w := .inl (Opcode.ofBits_eq_none_iff.mp hop)
    simpa [and_maskWord_eq_matchWord_iff, hno] using hreserved
  · rw [Opcode.ofBits_eq_some_iff] at hop
    have hrow : (∃ op' : Opcode, w &&& op'.maskWord = op'.matchWord
          ∧ (op'.isUnchecked = true → exposed = true))
        ↔ w &&& op.format.zeroMask = 0#16 ∧ (op.isUnchecked = true → exposed = true) := by
      simp [and_maskWord_eq_matchWord_iff, hop, Opcode.bits_injective.eq_iff, and_assoc]
    unfold opField at hop
    rw [hrow, Machine.IllegalWord, hop]
    cases op <;>
      simp [Opcode.bits, Opcode.isUnchecked, Opcode.format, and_zeroMask_n, and_zeroMask_v,
        and_zeroMask_i, and_zeroMask_iv, and_zeroMask_b, and_zeroMask_bv, imp_iff_not_or]

/-- A word is refused in the seven cases of R69 and in no other. -/
theorem exists_decode_error_iff_illegalWord {exposed : Bool} {w : CommandWord} :
    (∃ e, decode exposed w = .error e) ↔ Machine.IllegalWord exposed w := by
  rw [exists_decode_error_iff, illegalWord_iff, exists_decode_ok_iff]

end Sys2Proof

/-! ## What a step keeps (R60, R66, R67, R182) -/

namespace Sys2Proof.Machine

theorem sound_ok (d : Data) : Response.Sound { status := .ok, data := d } :=
  ⟨nofun, fun h => absurd rfl h⟩

theorem sound_invalidIndex : Response.Sound { status := .invalidIndex, data := 0#256 } :=
  ⟨nofun, fun _ => rfl⟩

theorem sound_illegal : Response.Sound { status := .illegal, data := 0#256 } :=
  ⟨nofun, fun _ => rfl⟩

/-- The array machine answers soundly, whatever the command (R66, R67). -/
theorem arrayExec_sound {i : Instr} {a : SlotArray} {reply : ArrayReply}
    (h : arrayExec i a = some reply) : reply.response.Sound := by
  cases i with
  | default | splat | get | set | chans | idxbyte | idxvalid =>
    cases h
    exact sound_ok _
  | getc | setc | idxtry =>
    simp only [arrayExec] at h
    split at h
    · cases h
      exact sound_ok _
    · cases h
      exact sound_invalidIndex
  | getu | setu | idxu =>
    simp only [arrayExec] at h
    split at h
    · cases h
      exact sound_ok _
    · cases h

/-- Every command answers once and soundly, or is undefined: the engine answers as the array machine
(R170). -/
theorem exec_cases (i : Instr) (s : State) :
    (∃ t, ∃ r : Response, exec i s = .next t ∧ AnsweredOnce s t r.status r.data ∧ r.Sound)
    ∨ ∃ f, exec i s = .fault f := by
  have href := Proofs.engineRefinesSlotArray i s
  rcases h : arrayExec i (slot s.store) with _ | reply
  · rw [h] at href
    exact .inr href
  · rw [h] at href
    obtain ⟨t, ht, -, hanswered⟩ := href
    exact .inl ⟨t, reply.response, ht, hanswered, arrayExec_sound h⟩

/-- What every step that goes on leaves beside the store: the build parameter, the inputs after the
first, and the responses with at most one more, which is sound (R60, R182). -/
theorem step_next_frame {s t : State} (h : step s = .next t) :
    t.uncheckedExposed = s.uncheckedExposed ∧ t.input = s.input.tail
      ∧ (t.responses = s.responses ∨ ∃ r : Response, r.Sound ∧ t.responses = s.responses ++ [r]) := by
  rcases step_cases s with ⟨hin, hs⟩ | ⟨rest, hin, hs⟩ | ⟨cw, rest, e, hin, -, hs⟩
    | ⟨cw, rest, i, hin, -, hs⟩
  · obtain rfl := idle_next (hs.symm.trans h)
    exact ⟨rfl, by rw [hin, List.tail_nil], .inl rfl⟩
  · obtain rfl := applyReset_next (hs.symm.trans h)
    exact ⟨rfl, by rw [hin]; rfl, .inl rfl⟩
  · obtain rfl := raiseIllegal_next (hs.symm.trans h)
    exact ⟨rfl, by rw [hin]; rfl, .inr ⟨_, sound_illegal, rfl⟩⟩
  · rcases exec_cases i (s.withInput rest) with ⟨u, r, hu, ⟨hexp, hinput, hresp⟩, hr⟩ | ⟨f, hf⟩
    · obtain rfl : u = t := Host.Outcome.next.inj (hu.symm.trans (hs.symm.trans h))
      exact ⟨hexp, by rw [hinput, hin]; rfl, .inr ⟨r, hr, hresp⟩⟩
    · cases hf.symm.trans (hs.symm.trans h)

/-- A step that answers nothing, or one more sound response, keeps the responses sound. -/
theorem responsesSound_of_append {s t : State} (hs : ResponsesSound s)
    (h : t.responses = s.responses ∨ ∃ r : Response, r.Sound ∧ t.responses = s.responses ++ [r]) :
    ResponsesSound t := by
  unfold ResponsesSound at hs ⊢
  rcases h with h | ⟨r, hr, h⟩
  · rwa [h]
  · rw [h, List.forall_mem_append]
    exact ⟨hs, List.forall_mem_singleton.mpr hr⟩

/-- An illegal word is answered `ILLEGAL` and nothing else happens (R69, R174). -/
theorem step_of_decode_error {s : State} {cw : CommandWord} {rest : List HostInput}
    {e : DecodeError} (h : s.input = .command cw :: rest)
    (hd : decode s.uncheckedExposed cw = .error e) :
    step s = .next ((s.withInput rest).answer .illegal 0#256) := by
  simp only [step, fetch_illegal h hd]
  rfl

/-- What the host's view of a table row decodes, the decoder decodes (log 15). -/
theorem decode_of_decodeTableWord {w : Nat} {i : Instr} (h : decodeTableWord 16 w = some i) :
    decode true (wordOfTable 16 w) = .ok i := by
  rw [decodeTableWord, if_pos (Nat.le_refl 16)] at h
  cases hd : decode true (wordOfTable 16 w) with
  | error e => rw [hd] at h; cases h
  | ok j => rw [hd] at h; cases h; rfl

end Sys2Proof.Machine

/-! ## Numbers in decimal (R73, log 12) -/

namespace Sys2Proof.Machine

theorem isDigit_iff {c : Char} : c.isDigit = true ↔ 48 ≤ c.toNat ∧ c.toNat ≤ 57 := by
  simp [Char.isDigit, UInt32.le_iff_toNat_le]

theorem digitValue_of_isDigit {c : Char} (h : c.isDigit = true) :
    digitValue c = some (c.toNat - 48) :=
  if_pos (isDigit_iff.mp h)

theorem isDigit_of_mem_decimalText {n : Nat} {c : Char} (h : c ∈ decimalText n) :
    c.isDigit = true :=
  Nat.isDigit_of_mem_toDigits (by decide) (by decide) h

theorem ne_of_isDigit {c d : Char} (hc : c.isDigit = true) (hd : d.isDigit = false) : c ≠ d := by
  rintro rfl
  exact Bool.noConfusion (hc.symm.trans hd)

theorem isBlank_of_isDigit {c : Char} (h : c.isDigit = true) : isBlank c = false := by
  simp [isBlank, ne_of_isDigit h]

/-- A number of decimal digits is its value by place (R73). -/
theorem parseDigits_eq_ofDigitChars {cs : List Char} (hcs : ∀ c ∈ cs, c.isDigit = true)
    (acc : Nat) {afterDigit : Bool} (h : cs ≠ [] ∨ afterDigit = true) :
    parseDigits 10 acc afterDigit cs = some (Nat.ofDigitChars 10 cs acc) := by
  induction cs generalizing acc afterDigit with
  | nil => simp_all [parseDigits, Nat.ofDigitChars]
  | cons c rest ih =>
    obtain ⟨hc, hrest⟩ := List.forall_mem_cons.mp hcs
    have hlt : c.toNat - 48 < 10 := by
      have := isDigit_iff.mp hc
      omega
    have hne : c ≠ '_' := ne_of_isDigit hc rfl
    rw [parseDigits, if_neg hne, digitValue_of_isDigit hc]
    simp only [if_pos hlt]
    rw [ih hrest _ (.inr rfl), Nat.ofDigitChars_cons, Nat.mul_comm]
    rfl

/-- Digits are none of the other forms of an operand: neither a symbol nor a number in another base
(R73). -/
theorem parseOperand_of_isDigit {cs : List Char} (hcs : ∀ c ∈ cs, c.isDigit = true) :
    parseOperand cs = parseDigits 10 0 false cs := by
  unfold parseOperand
  split
  · exact absurd (hcs 'M' (by simp)) (by decide)
  · exact absurd (hcs 'M' (by simp)) (by decide)
  · exact absurd (hcs 'x' (by simp)) (by decide)
  · exact absurd (hcs 'b' (by simp)) (by decide)
  · rfl

theorem parseOperand_decimalText (n : Nat) : parseOperand (decimalText n) = some n := by
  have hdigits : ∀ c ∈ decimalText n, c.isDigit = true := fun _ => isDigit_of_mem_decimalText
  rw [parseOperand_of_isDigit hdigits,
    parseDigits_eq_ofDigitChars hdigits 0 (.inl Nat.toDigits_ne_nil)]
  exact congrArg some Nat.ofDigitChars_ten_toDigits

/-! ## Blanks at the ends of a text (R73, log 12) -/

/-- A text with no blank at either end. -/
def Trimmed (text : List Char) : Prop :=
  text.dropWhile isBlank = text ∧ text.reverse.dropWhile isBlank = text.reverse

theorem Trimmed.trimBlanks_eq {text : List Char} (h : Trimmed text) : trimBlanks text = text := by
  obtain ⟨hfirst, hlast⟩ := h
  rw [trimBlanks, hfirst, hlast, List.reverse_reverse]

theorem trimBlanks_cons_blank (text : List Char) : trimBlanks (' ' :: text) = trimBlanks text :=
  rfl

theorem dropWhile_isBlank_eq_self {text : List Char} (h : ∀ c ∈ text, isBlank c = false) :
    text.dropWhile isBlank = text := by
  cases text with
  | nil => rfl
  | cons c rest => exact List.dropWhile_cons_of_neg (by simp [h c])

theorem trimmed_of_forall {text : List Char} (h : ∀ c ∈ text, isBlank c = false) :
    Trimmed text :=
  ⟨dropWhile_isBlank_eq_self h, dropWhile_isBlank_eq_self fun c hc => h c (List.mem_reverse.mp hc)⟩

/-- What stands between two trimmed texts does not matter to the ends. -/
theorem Trimmed.append {first last : List Char} (hfirst : Trimmed first) (hlast : Trimmed last)
    (hfirst' : first ≠ []) (hlast' : last ≠ []) (between : List Char) :
    Trimmed (first ++ between ++ last) := by
  constructor
  · simp [List.dropWhile_append, hfirst.1, hfirst']
  · simp [List.dropWhile_append, hlast.2, hlast']

theorem isBlank_of_mem_decimalText {n : Nat} {c : Char} (h : c ∈ decimalText n) :
    isBlank c = false :=
  isBlank_of_isDigit (isDigit_of_mem_decimalText h)

theorem trimmed_decimalText (n : Nat) : Trimmed (decimalText n) :=
  trimmed_of_forall fun _ => isBlank_of_mem_decimalText

theorem decimalText_ne_nil (n : Nat) : decimalText n ≠ [] := Nat.toDigits_ne_nil

theorem comma_not_mem_decimalText (n : Nat) : ',' ∉ decimalText n := fun h =>
  absurd (isDigit_of_mem_decimalText h) (by decide)

/-! ## Operands and mnemonics read back (R73, R74) -/

theorem parseOperands_one (n : Nat) :
    parseOperands ((decimalText n).splitOn ',') = some [n] := by
  rw [List.splitOn_eq_singleton (comma_not_mem_decimalText n)]
  simp only [parseOperands, (trimmed_decimalText n).trimBlanks_eq, parseOperand_decimalText]

theorem parseOperands_two (m n : Nat) :
    parseOperands ((decimalText m ++ [',', ' '] ++ decimalText n).splitOn ',') = some [m, n] := by
  have hsecond : ',' ∉ ' ' :: decimalText n := by
    simpa using comma_not_mem_decimalText n
  have hsplit : (decimalText m ++ [',', ' '] ++ decimalText n).splitOn ','
      = [decimalText m, ' ' :: decimalText n] := by
    rw [List.append_assoc]
    exact (List.splitOn_append_cons_self_of_not_mem (comma_not_mem_decimalText m) _).trans
      (congrArg _ (List.splitOn_eq_singleton hsecond))
  rw [hsplit]
  simp only [parseOperands, trimBlanks_cons_blank, (trimmed_decimalText _).trimBlanks_eq,
    parseOperand_decimalText]

theorem opcodeOfText_mnemonicText (op : Opcode) : opcodeOfText (mnemonicText op) = some op := by
  cases op <;> simp [opcodeOfText, Opcode.all, mnemonicText]

theorem isBlank_of_mem_mnemonicText {op : Opcode} : ∀ c ∈ mnemonicText op, isBlank c = false := by
  cases op <;> simp [mnemonicText, isBlank]

theorem mnemonicText_ne_nil (op : Opcode) : mnemonicText op ≠ [] := by
  cases op <;> nofun

/-- A line of one word is a command without operands. -/
theorem assemble_mnemonic (op : Opcode) :
    assemble (mnemonicText op) = commandOfOperands op [] := by
  cases op <;> rfl

/-- A line of a mnemonic, a blank and operands is the command of what the operands parse to. -/
theorem assemble_mnemonic_operands (op : Opcode) {operands : List Char} {args : List Nat}
    (htrim : Trimmed operands) (hne : operands ≠ [])
    (hargs : parseOperands (operands.splitOn ',') = some args) :
    assemble (mnemonicText op ++ [' '] ++ operands) = commandOfOperands op args := by
  have hword : ∀ c ∈ mnemonicText op, (!isBlank c) = true := fun c hc => by
    rw [isBlank_of_mem_mnemonicText c hc]
    rfl
  have hline : trimBlanks (mnemonicText op ++ [' '] ++ operands)
      = mnemonicText op ++ ' ' :: operands := by
    rw [((trimmed_of_forall isBlank_of_mem_mnemonicText).append htrim (mnemonicText_ne_nil op) hne
      [' ']).trimBlanks_eq, List.append_assoc, List.singleton_append]
  have hhead : (mnemonicText op ++ ' ' :: operands).takeWhile (fun c => !isBlank c)
      = mnemonicText op := by
    rw [List.takeWhile_append_of_pos hword]
    exact List.append_nil _
  have htail : (mnemonicText op ++ ' ' :: operands).dropWhile (fun c => !isBlank c)
      = ' ' :: operands :=
    List.dropWhile_append_of_pos hword
  simp only [assemble, hline, hhead, htail, opcodeOfText_mnemonicText, trimBlanks_cons_blank,
    htrim.trimBlanks_eq, if_neg hne, hargs]

theorem assemble_one (op : Opcode) (n : Nat) :
    assemble (mnemonicText op ++ [' '] ++ decimalText n) = commandOfOperands op [n] :=
  assemble_mnemonic_operands op (trimmed_decimalText n) (decimalText_ne_nil n) (parseOperands_one n)

theorem assemble_two (op : Opcode) (m n : Nat) :
    assemble (mnemonicText op ++ [' '] ++ decimalText m ++ [',', ' '] ++ decimalText n)
      = commandOfOperands op [m, n] := by
  have htrim := (trimmed_decimalText m).append (trimmed_decimalText n) (decimalText_ne_nil m)
    (decimalText_ne_nil n) [',', ' ']
  have hne : decimalText m ++ [',', ' '] ++ decimalText n ≠ [] := by simp
  have h := assemble_mnemonic_operands op htrim hne (parseOperands_two m n)
  simpa only [List.append_assoc] using h

/-- The operands of a command, as numbers in the order of its text (R73). -/
def operandValues (i : Instr) : List Nat :=
  match i.opcode.format with
  | .n => []
  | .v => [i.nibbleOperand.toNat]
  | .i => [i.byteOperand.toNat]
  | .iv => [i.byteOperand.toNat, i.nibbleOperand.toNat]
  | .b => [i.byteOperand.toNat]
  | .bv => [i.byteOperand.toNat, i.nibbleOperand.toNat]

/-- The text of a command assembles as its mnemonic and its operand values. -/
theorem assemble_disassemble (i : Instr) :
    assemble (disassemble i) = commandOfOperands i.opcode (operandValues i) := by
  unfold disassemble operandValues
  cases i.opcode.format with
  | n => exact assemble_mnemonic _
  | v | i | b => exact assemble_one _ _
  | iv | bv => exact assemble_two _ _ _

/-- A command's own operand values are in range and make it again (R62, R73). -/
theorem commandOfOperands_operandValues (i : Instr) :
    commandOfOperands i.opcode (operandValues i) = some i := by
  have hbuild := congrArg some i.build_operands
  have hindex (idx : Index) : (indexByte idx).toNat < 64 := by
    rw [indexByte_toNat]
    exact idx.isLt
  have hbyte (b : Byte) : b.toNat < 256 := b.isLt
  have hnibble (v : Nibble) : v.toNat < 16 := v.isLt
  cases i with
  | default | chans => rfl
  | splat | get | set | getc | setc | getu | setu | idxtry | idxu | idxbyte | idxvalid =>
    simp only [commandOfOperands, operandValues, Instr.opcode, Opcode.format, Instr.byteOperand,
      Instr.nibbleOperand, hindex, hbyte, hnibble, and_self, if_true, BitVec.ofNat_toNat,
      BitVec.setWidth_eq]
    exact hbuild

end Sys2Proof.Machine

/-! ## The statements on words and steps settled -/

namespace Sys2Proof.Proofs

open Sys2Proof Sys2Proof.Machine

/-- Settles O1. -/
theorem decodeOfEncode : Obligations.DecodeOfEncode := fun _ _ hi => decode_encode hi

/-- Settles O2: a legal word matches a row, and the row's command has the fields of the word. -/
theorem encodeOfDecode : Obligations.EncodeOfDecode := by
  intro exposed w i hd
  obtain ⟨op, hrow, hexp, rfl⟩ := decode_eq_ok_iff.mp hd
  refine ⟨encode_build hrow, ?_⟩
  rwa [Instr.WellFormed, ← Instr.isUnchecked_opcode, Opcode.opcode_build]

/-- Settles O15. -/
theorem stepKeepsResponsesSound : Obligations.StepKeepsResponsesSound := by
  intro s t hs h
  obtain ⟨-, -, hresp⟩ := step_next_frame h
  exact responsesSound_of_append hs hresp

/-- Settles O3. -/
theorem wordIsCommandExactlyWhenItMatches : Obligations.WordIsCommandExactlyWhenItMatches := by
  intro exposed op w
  constructor
  · rintro ⟨i, hd, rfl⟩
    obtain ⟨op, hrow, hexp, rfl⟩ := decode_eq_ok_iff.mp hd
    rw [Opcode.opcode_build]
    exact ⟨hrow, hexp⟩
  · rintro ⟨hrow, hexp⟩
    exact ⟨_, decode_eq_ok_iff.mpr ⟨op, hrow, hexp, rfl⟩, Opcode.opcode_build op _ _⟩

/-- Settles O4: a matching word has the row's opcode number, and no two rows share one. -/
theorem tableRowsDisjoint : Obligations.TableRowsDisjoint := by
  intro op op' w h h'
  obtain ⟨hop, -⟩ := and_maskWord_eq_matchWord_iff.mp h
  obtain ⟨hop', -⟩ := and_maskWord_eq_matchWord_iff.mp h'
  exact Opcode.bits_injective (hop.symm.trans hop')

/-- Settles O6. -/
theorem illegalWordsAreExactlyTheSevenCases :
    Obligations.IllegalWordsAreExactlyTheSevenCases := by
  refine ⟨fun _ _ => exists_decode_error_iff_illegalWord, fun s w rest hin hw => ?_⟩
  obtain ⟨e, hd⟩ := exists_decode_error_iff_illegalWord.mpr hw
  exact step_of_decode_error hin hd

/-- Settles O7. -/
theorem assembleOfDisassemble : Obligations.AssembleOfDisassemble := fun i =>
  (assemble_disassemble i).trans (commandOfOperands_operandValues i)

/-- Settles O14: of the four things a step can be, only a command could refuse, and none does. -/
theorem stepNeverRefuses : Obligations.StepNeverRefuses := by
  intro s r h
  rcases step_cases s with ⟨-, hs⟩ | ⟨rest, -, hs⟩ | ⟨cw, rest, e, -, -, hs⟩
    | ⟨cw, rest, i, -, -, hs⟩
  · cases hs.symm.trans h
  · cases hs.symm.trans h
  · cases hs.symm.trans h
  · rcases exec_cases i (s.withInput rest) with ⟨t, r', ht, -, -⟩ | ⟨f, hf⟩
    · cases ht.symm.trans (hs.symm.trans h)
    · cases hf.symm.trans (hs.symm.trans h)

/-- Settles O17. -/
theorem stepKeepsBuildAndAnswersAtMostOnce : Obligations.StepKeepsBuildAndAnswersAtMostOnce := by
  intro s t h
  obtain ⟨hexp, hinput, hresp⟩ := step_next_frame h
  exact ⟨hexp, hinput, hresp.imp_right fun ⟨r, _, hr⟩ => ⟨r, hr⟩⟩

/-- Settles O5. -/
theorem encodingExamples : Obligations.EncodingExamples := by
  unfold Obligations.EncodingExamples
  decide

/-- Settles O8. -/
theorem stepRunsDecodedCommand : Obligations.StepRunsDecodedCommand :=
  fun _ _ _ _ hin hd => step_of_decode hin hd

/-- Settles O9: the state with the placed word taken off again is the state. -/
theorem placedWordRunsAtOnce : Obligations.PlacedWordRunsAtOnce := by
  intro s w i hexp hw
  have hd : decode (s.withFetchWord 16 w).uncheckedExposed (wordOfTable 16 w) = .ok i := by
    rw [State.withFetchWord, present_uncheckedExposed, hexp]
    exact decode_of_decodeTableWord hw
  exact step_of_decode (present_input s _) hd

/-- Settles O16. -/
theorem resetResponsesSound : Obligations.ResetResponsesSound := nofun

end Sys2Proof.Proofs

/-! # Proofs: the validated index family

SUPPORT. A command's word as its row of R64 with its operands filled in, the word of a hidden command,
and what the index family can do, said once; then the statements they settle. -/

/-! ## The word of a command (R61, R64, R70) -/

namespace Sys2Proof

/-- The opcode number in its place is the row's match word (R64). -/
theorem Opcode.bits_shiftLeft (op : Opcode) : op.bits.setWidth 16 <<< 12 = op.matchWord := by
  cases op <;> rfl

/-- A command's word is its row's match word with the operands filled in (R61, R64). -/
theorem encode_eq_matchWord_or (i : Instr) :
    encode i = i.opcode.matchWord ||| (i.byteOperand.setWidth 16 <<< 4)
      ||| i.nibbleOperand.setWidth 16 := by
  rw [← Opcode.bits_shiftLeft]
  rfl

/-- In the formats without a nibble, only the byte is filled in (R62). -/
theorem encode_of_nibbleOperand_eq_zero {i : Instr} (h : i.nibbleOperand = 0#4) :
    encode i = i.opcode.matchWord ||| (i.byteOperand.setWidth 16 <<< 4) := by
  rw [encode_eq_matchWord_or, h, BitVec.setWidth_zero, BitVec.or_zero]

/-- An index fills the byte field of a word as its own zero extension (R26, R63). -/
theorem setWidth_indexByte (idx : Index) : (indexByte idx).setWidth 16 = idx.setWidth 16 := by
  apply BitVec.eq_of_toNat_eq
  rw [BitVec.toNat_setWidth, Machine.indexByte_toNat, BitVec.toNat_setWidth]

/-- The word of a command that does not exist on the block fails the decoder's third test, and only
that one (R65, R70). -/
theorem decode_encode_of_not_wellFormed {exposed : Bool} {i : Instr}
    (hi : ¬ i.WellFormed exposed) :
    decode exposed (encode i) = .error .uncheckedNotExposed := by
  have hhidden : (i.opcode.isUnchecked && !exposed) = true := by
    rwa [hidden_eq_true_iff, Instr.isUnchecked_opcode]
  simp only [decode, opField_encode, Opcode.ofBits_bits, encode_and_zeroMask, ne_eq,
    not_true_eq_false, if_false, if_pos hhidden]

end Sys2Proof

/-! ## What the index family answers (R91 to R94, R97) -/

namespace Sys2Proof.Machine

/-- Below 64, truncating a byte to an index loses nothing (R63, R97). -/
theorem indexByte_truncIndex_of_lt {b : Byte} (h : b.toNat < 64) :
    indexByte (truncIndex b) = b :=
  indexByte_truncIndex (eq_of_beq ((isValidIndex_iff_lt b).mpr h))

theorem truncIndex_toNat_of_lt {b : Byte} (h : b.toNat < 64) :
    (truncIndex b).toNat = b.toNat := by
  rw [← indexByte_toNat, indexByte_truncIndex_of_lt h]

theorem data_ofNat_lt {n : Nat} (h : n < 64) : (BitVec.ofNat 256 n).toNat < 64 :=
  (BitVec.toNat_ofNat n 256).symm ▸ (Nat.mod_le n _).trans_lt h

/-- Everything a command of the index family can do: answer `OK` with a number below 64, or, for the two
that take a byte they do not accept, answer `INVALID_INDEX` or be undefined (R98, R99). -/
theorem exec_indexFamily_cases {i : Instr} (hi : isIndexFamily i = true) (s : State) :
    (∃ data : Data, data.toNat < 64 ∧ exec i s = .next (s.answer .ok data))
    ∨ (∃ b, i = .idxtry b ∧ exec i s = .next (s.answer .invalidIndex 0#256))
    ∨ ∃ b, i = .idxu b ∧ exec i s = .fault (.idxuUndefined b) := by
  cases i with
  | idxtry b =>
    by_cases h : b.toNat < 64
    · exact .inl ⟨_, data_ofNat_lt h, exec_idxtry_of_lt s h⟩
    · exact .inr (.inl ⟨b, rfl, exec_idxtry_of_not_lt s h⟩)
  | idxu b =>
    by_cases h : b.toNat < 64
    · exact .inl ⟨_, data_ofNat_lt h, exec_idxu_of_lt s h⟩
    · exact .inr (.inr ⟨b, rfl, exec_idxu_of_not_lt s h⟩)
  | idxbyte idx => exact .inl ⟨_, data_ofNat_lt idx.isLt, exec_idxbyte idx s⟩
  | idxvalid b =>
    refine .inl ⟨_, ?_, exec_idxvalid b s⟩
    split <;> decide
  | default | splat | get | set | getc | setc | getu | setu | chans => cases hi

end Sys2Proof.Machine

/-! ## The statements on the index family settled -/

namespace Sys2Proof.Proofs

open Sys2Proof Sys2Proof.Machine

/-- Settles O21. -/
theorem idxvalidAnswersWhetherInRange : Obligations.IdxvalidAnswersWhetherInRange := fun b s =>
  ⟨encode_of_nibbleOperand_eq_zero rfl, exec_idxvalid b s⟩

/-- Settles O22. -/
theorem idxtryChecksItsByte : Obligations.IdxtryChecksItsByte := fun _ s =>
  ⟨encode_of_nibbleOperand_eq_zero rfl, exec_idxtry_of_lt s,
    fun h => exec_idxtry_of_not_lt s h.not_gt⟩

/-- Settles O23: the command exists on a block built with the unchecked commands and on no other. -/
theorem idxuTrustsItsByte : Obligations.IdxuTrustsItsByte := by
  intro b s
  have hexposed : (Instr.idxu b).WellFormed true := fun _ => rfl
  have hhidden : ¬ (Instr.idxu b).WellFormed false := fun h => nomatch h rfl
  refine ⟨encode_of_nibbleOperand_eq_zero rfl, decode_encode hexposed,
    ⟨_, decode_encode_of_not_wellFormed hhidden⟩, fun h => ⟨exec_idxu_of_lt s h, ?_⟩,
    fun h => exec_idxu_of_not_lt s h.not_gt⟩
  rw [exec_idxu_of_lt s h, exec_idxtry_of_lt s h]

/-- Settles O25: the index a byte below 64 stands for is its truncation. -/
theorem idxtryAndIdxbyteAreInverse : Obligations.IdxtryAndIdxbyteAreInverse := by
  constructor
  · intro v s hv
    have hnat : (truncIndex v).toNat = v.toNat := truncIndex_toNat_of_lt hv
    refine ⟨truncIndex v, indexByte_truncIndex_of_lt hv, ?_, ?_⟩
    · rw [hnat, exec_idxtry_of_lt s hv]
    · rw [← hnat, exec_idxbyte]
  · intro x s
    have hlt : (indexByte x).toNat < 64 := (isValidIndex_iff_lt _).mp (isValidIndex_indexByte x)
    refine ⟨hlt, truncIndex_indexByte x, ?_⟩
    rw [exec_idxtry_of_lt s hlt, indexByte_toNat]

/-- Settles O26. -/
theorem onlyIdxtryOfItsFamilyFails : Obligations.OnlyIdxtryOfItsFamilyFails := fun _ s hi =>
  (exec_indexFamily_cases hi s).imp_left fun ⟨data, _, h⟩ => ⟨data, h⟩

/-- Settles O27: an answer of status `OK` can only be the first of the family's three cases. -/
theorem answeredIndicesAreInRange : Obligations.AnsweredIndicesAreInRange := by
  intro i s t data hi ht hlast
  rcases exec_indexFamily_cases hi s with ⟨d, hd, h⟩ | ⟨b, -, h⟩ | ⟨b, -, h⟩
  · obtain rfl : s.answer .ok d = t := Host.Outcome.next.inj (h.symm.trans ht)
    rw [lastResponse_answer] at hlast
    cases hlast
    exact hd
  · obtain rfl : s.answer .invalidIndex 0#256 = t := Host.Outcome.next.inj (h.symm.trans ht)
    rw [lastResponse_answer] at hlast
    cases hlast
  · cases h.symm.trans ht

/-- Settles O20. -/
theorem validityMaskAgreesWithComparison : Obligations.ValidityMaskAgreesWithComparison :=
  isValidIndex_iff_lt

/-- Settles O24. -/
theorem idxbyteAnswersItsIndex : Obligations.IdxbyteAnswersItsIndex := by
  intro idx s
  refine ⟨?_, exec_idxbyte idx s⟩
  rw [encode_of_nibbleOperand_eq_zero rfl, ← setWidth_indexByte]
  rfl

end Sys2Proof.Proofs

/-! # Proofs: the raw packed store family

SUPPORT. What each command and each input leaves in one slot, said once; the laws of the two slot
primitives, read off the slot view; the words of the family; then the statements they settle. -/

/-! ## The words of the family (R61, R64, R70) -/

namespace Sys2Proof

/-- In the formats without a byte, only the nibble is filled in (R62). -/
theorem encode_of_byteOperand_eq_zero {i : Instr} (h : i.byteOperand = 0#8) :
    encode i = i.opcode.matchWord ||| i.nibbleOperand.setWidth 16 := by
  rw [encode_eq_matchWord_or, h, BitVec.setWidth_zero, BitVec.zero_shiftLeft, BitVec.or_zero]

/-- The word of an unchecked command is that command on a block built with them and illegal on a
block built without (R70). -/
theorem decode_encode_of_isUnchecked {i : Instr} (hi : i.isUnchecked = true) :
    decode true (encode i) = .ok i ∧ ∃ e, decode false (encode i) = .error e :=
  ⟨decode_encode fun _ => rfl, _, decode_encode_of_not_wellFormed fun h => nomatch h hi⟩

end Sys2Proof

/-! ## One slot through a command, an input and a run (R49, R77, R127) -/

namespace Sys2Proof.Machine

/-- Below 64, a byte and an index are the same number exactly when the index is the byte's. -/
theorem eq_indexOfByte_iff {b : Byte} (h : b.toNat < 64) (j : Index) :
    j = indexOfByte b ↔ b.toNat = j.toNat := by
  rw [← truncIndex_eq_indexOfByte, ← BitVec.toNat_inj, truncIndex_toNat_of_lt h, eq_comm]

/-- The array machine leaves in slot `j` what the command writes there, or what was there. -/
theorem slots_arrayExec {i : Instr} {a : SlotArray} {reply : ArrayReply}
    (h : arrayExec i a = some reply) (j : Index) :
    reply.slots j = (writesSlot j i).getD (a j) := by
  cases i with
  | default | splat | get | chans | idxbyte | idxvalid =>
    cases h
    rfl
  | set idx v =>
    cases h
    by_cases hj : idx = j
    · simp [writesSlot, hj]
    · simp [writesSlot, hj, Ne.symm hj]
  | getc | getu | idxtry | idxu =>
    simp only [arrayExec] at h
    split at h <;> cases h <;> rfl
  | setc b v | setu b v =>
    simp only [arrayExec] at h
    split at h
    next hb =>
      cases h
      by_cases hj : b.toNat = j.toNat <;> simp [writesSlot, eq_indexOfByte_iff hb, hj]
    next hb =>
      have hj : b.toNat ≠ j.toNat := fun hj => hb (hj ▸ j.isLt)
      cases h <;> simp [writesSlot, hj]

/-- A command leaves in slot `j` what it writes there, or what was there: the engine does to the
slots what the array machine does (R49, R77). -/
theorem slot_exec {i : Instr} {s t : State} (h : exec i s = .next t) (j : Index) :
    slot t.store j = (writesSlot j i).getD (slot s.store j) := by
  have href := Proofs.engineRefinesSlotArray i s
  rcases hreply : arrayExec i (slot s.store) with _ | reply
  · rw [hreply] at href
    obtain ⟨f, hf⟩ := href
    cases hf.symm.trans h
  · rw [hreply] at href
    obtain ⟨u, hu, hslots, -⟩ := href
    obtain rfl : u = t := Host.Outcome.next.inj (hu.symm.trans h)
    rw [hslots, slots_arrayExec hreply]

/-- Taking one input leaves in slot `j` what the input writes there, or what was there (R174,
R200). -/
theorem slot_step {s t : State} {x : HostInput} {rest : List HostInput} (hin : s.input = x :: rest)
    (h : step s = .next t) (j : Index) :
    slot t.store j = (inputWrites s.uncheckedExposed j x).getD (slot s.store j) := by
  cases x with
  | reset =>
    simp only [step, fetch_reset hin] at h
    obtain rfl := applyReset_next h
    exact slot_zero j
  | command cw =>
    rw [inputWrites]
    rcases hd : decode s.uncheckedExposed cw with e | i
    · obtain rfl := Host.Outcome.next.inj ((step_of_decode_error hin hd).symm.trans h)
      rfl
    · exact slot_exec ((step_of_decode hin hd).symm.trans h) j

/-- A run that ends takes its first input in a step that goes on, and is the run of what that step
leaves (R203). -/
theorem exists_step_of_runAll {s t : State} {x : HostInput} {rest : List HostInput}
    (hin : s.input = x :: rest) (h : runAll s = .next t) :
    ∃ u, step s = .next u ∧ u.uncheckedExposed = s.uncheckedExposed ∧ u.input = rest
      ∧ runAll u = .next t := by
  rcases hstep : step s with u | f | r
  · obtain ⟨hexp, hinput, -⟩ := step_next_frame hstep
    have hrest : u.input = rest := by rw [hinput, hin, List.tail_cons]
    exact ⟨u, rfl, hexp, hrest, (runAll_of_step hin hrest hstep).symm.trans h⟩
  · rw [runAll, hin, List.length_cons, run_succ_of_fault hstep] at h
    cases h
  · exact absurd hstep (Proofs.stepNeverRefuses s r)

/-- After a run, each slot holds the value last written to it, or what was there (R127). -/
theorem slot_runAll {s t : State} (h : runAll s = .next t) (j : Index) :
    slot t.store j = lastWritten s.uncheckedExposed j (slot s.store j) s.input := by
  induction hin : s.input generalizing s with
  | nil =>
    rw [runAll, hin] at h
    obtain rfl : s = t := Host.Outcome.next.inj h
    rfl
  | cons x rest ih =>
    obtain ⟨u, hstep, hexp, hrest, hrun⟩ := exists_step_of_runAll hin h
    rw [ih hrun hrest, hexp, slot_step hin hstep, lastWritten]

end Sys2Proof.Machine

/-! ## The laws of the two slot primitives (R124 to R131) -/

namespace Sys2Proof.Machine

/-- A contribution is `2^k` or 0 by the one bit it takes from its channel (R131). -/
theorem contribution_eq_ite (S : Store) (idx : Index) (k : Fin 4) :
    contribution S idx k = if (S.ch k).getLsbD idx.toNat then 1#64 <<< k.val else 0#64 := by
  rw [contribution_eq_bit]
  cases (S.ch k).getLsbD idx.toNat <;> simp

/-- The four contributions have no bit in common, so that their sum has no carry (R131). -/
theorem sum_contribution (S : Store) (idx : Index) :
    contribution S idx 0 + contribution S idx 1 + contribution S idx 2 + contribution S idx 3
        = (contribution S idx 0 ||| contribution S idx 1 ||| contribution S idx 2
          ||| contribution S idx 3)
    ∧ (contribution S idx 0 + contribution S idx 1 + contribution S idx 2
        + contribution S idx 3).toNat ≤ 15 := by
  simp only [contribution_eq_ite]
  generalize (S.ch 0).getLsbD idx.toNat = b0, (S.ch 1).getLsbD idx.toNat = b1,
    (S.ch 2).getLsbD idx.toNat = b2, (S.ch 3).getLsbD idx.toNat = b3
  revert b0 b1 b2 b3
  decide

section Scatter

variable (S : Store) (i : Index) (v w : Nibble)

/-- The later of two writes to one slot wins (R130). -/
theorem scatter_scatter_self : scatter (scatter S i v) i w = scatter S i w := by
  apply store_ext_slot
  intro j
  by_cases hj : j = i <;> simp [slot_scatter, hj]

/-- Writing back what a slot holds changes nothing (R130). -/
theorem scatter_slot_self : scatter S i (slot S i) = S := by
  apply store_ext_slot
  intro j
  by_cases hj : j = i <;> simp [slot_scatter, hj]

variable {i} in
/-- Writes to different slots commute (R130). -/
theorem scatter_comm {j : Index} (hij : i ≠ j) :
    scatter (scatter S i v) j w = scatter (scatter S j w) i v := by
  apply store_ext_slot
  intro k
  simp only [slot_scatter]
  by_cases hi : k = i
  · simp [hi, hij]
  · simp [hi]

/-- Filling is writing every slot (R130). -/
theorem foldl_scatter_allIndices :
    allIndices.foldl (fun T i => scatter T i v) S = splatStore v := by
  apply store_ext_slot
  intro j
  have hslots : slot (writeSlots (fun _ => v) allIndices S) j = v := by
    rw [slot_writeSlots, if_pos (mem_allIndices j)]
  rw [slot_splatStore]
  exact hslots

end Scatter

theorem eq_zero_iff_forall_slot {S : Store} : S = Store.zero ↔ ∀ idx, slot S idx = 0#4 := by
  refine ⟨fun h idx => h ▸ slot_zero idx, fun h => store_ext_slot fun idx => ?_⟩
  rw [h, slot_zero]

/-- The OR of the words is 0 exactly when each word is (R129). -/
theorem eq_zero_iff_or_channels {S : Store} :
    S = Store.zero ↔ (S.ch0 ||| S.ch1 ||| S.ch2 ||| S.ch3) = 0#64 := by
  cases S
  simp [Store.zero, and_assoc]

/-- The splat of 0 is the default store (R111). -/
theorem splatStore_zero : splatStore 0#4 = Store.zero :=
  eq_zero_iff_forall_slot.mpr (slot_splatStore 0#4)

/-- `DATA[64k+63 : 64k]` of a `CHANS` answer is channel `k` (R68, R121). -/
theorem extractLsb'_channelsData (S : Store) (k : Fin 4) :
    (channelsData S).extractLsb' (64 * k.val) 64 = S.ch k := by
  apply BitVec.eq_of_getLsbD_eq
  intro j hj
  rw [BitVec.getLsbD_extractLsb', getLsbD_channelsData S k hj, decide_eq_true hj, Bool.true_and]

end Sys2Proof.Machine

/-! ## The commands of the family, in the terms of their rules (R111 to R121) -/

namespace Sys2Proof.Machine

/-- `GET` answers what its slot holds (R115). -/
theorem exec_get_of_slot {s : State} {idx : Index} {v : Nibble} (h : slot s.store idx = v) :
    exec (.get idx) s = .next (s.answer .ok (v.setWidth 256)) :=
  h ▸ exec_get idx s

/-- Writing one slot and answering keeps every other bit (R42, R124). -/
theorem onlySlotWritten_answer_slotWrite (idx : Index) (v : Nibble) (s : State) (st : Status)
    (d : Data) : OnlySlotWritten s ((slotWrite idx v s).answer st d) idx v :=
  fun k _ hj => getLsbD_scatter s.store idx v k hj

/-! The byte of an index is in range, and the checked and unchecked forms take it as the index
(R114). -/

section IndexByte

variable (idx : Index) (v : Nibble) (s : State)

theorem indexByte_toNat_lt : (indexByte idx).toNat < 64 :=
  (indexByte_toNat idx).symm ▸ idx.isLt

@[simp] theorem indexOfByte_indexByte : indexOfByte (indexByte idx) = idx :=
  truncIndex_indexByte idx

theorem exec_getc_indexByte : exec (.getc (indexByte idx)) s = exec (.get idx) s := by
  rw [exec_getc_of_lt s (indexByte_toNat_lt idx), indexOfByte_indexByte, exec_get]

theorem exec_getu_indexByte : exec (.getu (indexByte idx)) s = exec (.get idx) s := by
  rw [exec_getu_of_lt s (indexByte_toNat_lt idx), indexOfByte_indexByte, exec_get]

theorem exec_setc_indexByte : exec (.setc (indexByte idx) v) s = exec (.set idx v) s := by
  rw [exec_setc_of_lt v s (indexByte_toNat_lt idx), indexOfByte_indexByte, exec_set]

theorem exec_setu_indexByte : exec (.setu (indexByte idx) v) s = exec (.set idx v) s := by
  rw [exec_setu_of_lt v s (indexByte_toNat_lt idx), indexOfByte_indexByte, exec_set]

end IndexByte

end Sys2Proof.Machine

/-! ## The statements on the store family settled -/

namespace Sys2Proof.Proofs

open Sys2Proof Sys2Proof.Machine

/-- Settles O48: `GETU` of an index's byte is `GET` of the index, which answers what the run
left. -/
theorem lastWriteWins : Obligations.LastWriteWins := by
  constructor
  · intro s t hrun j
    rw [exec_getu_indexByte, slotRead_eq_slot]
    exact exec_get_of_slot (slot_runAll hrun j)
  · intro j
    rw [slotRead_eq_slot]
    exact slot_zero j

/-- Settles O31. -/
theorem bitMapOfGatherAndScatter : Obligations.BitMapOfGatherAndScatter := by
  intro S idx k
  refine ⟨by rw [gather_eq_slot, getLsbD_slot], fun v => ⟨?_, fun j hj => ?_⟩⟩
  · rw [getLsbD_scatter S idx v k idx.isLt, if_pos rfl]
  · rw [getLsbD_scatter S idx v k j.isLt, if_neg fun h => hj (BitVec.eq_of_toNat_eq h)]

/-- Settles O32. -/
theorem gatherSumIsOr : Obligations.GatherSumIsOr := by
  intro S idx
  refine ⟨fun k => ?_, sum_contribution S idx⟩
  rw [contribution_eq_ite]
  split
  · exact .inr rfl
  · exact .inl rfl

/-- Settles O33: idempotence is overwriting with the same value. -/
theorem algebraOfWrites : Obligations.AlgebraOfWrites := by
  refine ⟨fun S i v w => ⟨scatter_scatter_self S i v w, scatter_scatter_self S i v v, ?_⟩,
    fun S _ _ v w hij => scatter_comm S v w hij, foldl_scatter_allIndices Store.zero⟩
  rw [gather_eq_slot, scatter_slot_self]

/-- Settles O35. -/
theorem defaultZeroesEverySlot : Obligations.DefaultZeroesEverySlot := by
  refine ⟨rfl, fun s => ⟨_, exec_default s, answeredOnce_answer_writeStore .., ch_zero,
    fun idx => ?_, rfl, splatStore_zero.symm⟩⟩
  rw [slotRead_eq_slot]
  exact slot_zero idx

/-- Settles O36. -/
theorem splatFillsTheChannels : Obligations.SplatFillsTheChannels := fun v s =>
  ⟨encode_of_byteOperand_eq_zero rfl, _, exec_splat v s, answeredOnce_answer_writeStore ..,
    ch_splatStore_eq_ite v⟩

/-- Settles O37. -/
theorem splatIsUniform : Obligations.SplatIsUniform := fun v s =>
  ⟨_, exec_splat v s, fun idx => exec_get_of_slot (slot_splatStore v idx)⟩

/-- Settles O38. -/
theorem getAnswersTheSlot : Obligations.GetAnswersTheSlot := by
  intro idx s
  refine ⟨?_, exec_get idx s⟩
  rw [encode_of_nibbleOperand_eq_zero rfl, ← setWidth_indexByte]
  rfl

/-- Settles O39. -/
theorem setWritesOneSlot : Obligations.SetWritesOneSlot := by
  intro idx v s
  refine ⟨?_, _, exec_set idx v s, answeredOnce_answer_slotWrite ..,
    onlySlotWritten_answer_slotWrite _ _ _ _ _, fun j => ?_⟩
  · rw [encode_eq_matchWord_or, ← setWidth_indexByte]
    rfl
  · simp only [slotRead_eq_slot]
    exact slot_scatter s.store idx v j

/-- Settles O40. -/
theorem getcChecksItsByte : Obligations.GetcChecksItsByte := fun _ s =>
  ⟨encode_of_nibbleOperand_eq_zero rfl, exec_getc_of_lt s,
    fun h => exec_getc_of_not_lt s h.not_gt⟩

/-- Settles O41. -/
theorem setcChecksItsByte : Obligations.SetcChecksItsByte := fun _ v s =>
  ⟨encode_eq_matchWord_or _,
    fun h => ⟨_, exec_setc_of_lt v s h, answeredOnce_answer_slotWrite ..,
      onlySlotWritten_answer_slotWrite _ _ _ _ _⟩,
    fun h => exec_setc_of_not_lt v s h.not_gt⟩

/-- Settles O42. -/
theorem getuTrustsItsByte : Obligations.GetuTrustsItsByte := by
  intro b s
  obtain ⟨hexposed, hhidden⟩ := decode_encode_of_isUnchecked (i := .getu b) rfl
  exact ⟨encode_of_nibbleOperand_eq_zero rfl, hexposed, hhidden, exec_getu_of_lt s,
    fun h => exec_getu_of_not_lt s h.not_gt⟩

/-- Settles O43. -/
theorem setuTrustsItsByte : Obligations.SetuTrustsItsByte := by
  intro b v s
  obtain ⟨hexposed, hhidden⟩ := decode_encode_of_isUnchecked (i := .setu b v) rfl
  exact ⟨encode_eq_matchWord_or _, hexposed, hhidden,
    fun h => ⟨_, exec_setu_of_lt v s h, answeredOnce_answer_slotWrite ..,
      onlySlotWritten_answer_slotWrite _ _ _ _ _⟩,
    fun h => exec_setu_of_not_lt v s h.not_gt⟩

/-- Settles O44. -/
theorem chansAnswersTheChannels : Obligations.ChansAnswersTheChannels :=
  ⟨rfl, fun s => ⟨_, exec_chans s, extractLsb'_channelsData s.store⟩⟩

/-- Settles O45. -/
theorem threeFormsAgree : Obligations.ThreeFormsAgree := fun s idx v =>
  ⟨⟨_, exec_get idx s⟩, exec_getc_indexByte idx s, exec_getu_indexByte idx s,
    ⟨_, exec_set idx v s⟩, exec_setc_indexByte idx v s, exec_setu_indexByte idx v s⟩

/-- Settles O46. -/
theorem setThenGetRoundTrip : Obligations.SetThenGetRoundTrip := by
  intro idx v s
  refine ⟨_, exec_set idx v s, exec_get_of_slot ?_⟩
  rw [answer_store, slotWrite_store, slot_scatter, if_pos rfl]

/-- Settles O47: the second write leaves the slot of the first. -/
theorem noCrossTalk : Obligations.NoCrossTalk := by
  constructor
  · intro S i j v hji
    rw [gather_eq_slot, gather_eq_slot, slot_scatter, if_neg hji]
  · intro i j v w s hij
    refine ⟨_, _, exec_set i v s, exec_set j w _, exec_get_of_slot ?_⟩
    simp only [answer_store, slotWrite_store, slot_scatter, if_neg hij, if_true]

/-- Settles O49: both tests say that the store is the default one. -/
theorem defaultIsZeroExactlyByOr : Obligations.DefaultIsZeroExactlyByOr := by
  refine ⟨fun S => ?_,
    fun s => ⟨_, exec_default s, fun idx => exec_get_of_slot (v := 0#4) (slot_zero idx)⟩,
    _, rfl, by decide, by decide⟩
  simp only [gather_eq_slot]
  exact eq_zero_iff_forall_slot.symm.trans eq_zero_iff_or_channels

/-- Settles O34. -/
theorem concreteScenario : Obligations.ConcreteScenario := by
  unfold Obligations.ConcreteScenario
  decide

end Sys2Proof.Proofs

/-! # Proofs: the typed view

SUPPORT. What issuing a command does, said once; a view operation by what its command answers; each
operation of the view on the slot view; then the statements they settle. -/

/-! ## Issuing a command (R60, R151) -/

namespace Sys2Proof.Machine

/-- A command that exists on the block runs when the host issues it (R65, R70). -/
theorem issue_of_wellFormed {i : Instr} {s : State} (hi : i.WellFormed s.uncheckedExposed) :
    issue i s = exec i s :=
  step_of_decode (present_input s _) (decode_encode hi)

/-- A command that does not exist on the block is answered `ILLEGAL` (R70, R174). -/
theorem issue_of_not_wellFormed {i : Instr} {s : State} (hi : ¬ i.WellFormed s.uncheckedExposed) :
    issue i s = .next (s.answer .illegal 0#256) :=
  step_of_decode_error (present_input s _) (decode_encode_of_not_wellFormed hi)

end Sys2Proof.Machine

/-! ## A view operation by what its command answers (R156, R159) -/

namespace Sys2Proof.Machine

section ViewCommand

variable {E A : Type} (onOk : Data → Except (ViewError E) A) {i : Instr} {s t : State}

theorem viewCommand_of_ok {d : Data} (hi : i.WellFormed s.uncheckedExposed)
    (h : exec i s = .next (t.answer .ok d)) :
    viewCommand onOk i s = .next { result := some (onOk d), block := t.answer .ok d } := by
  simp only [viewCommand, issue_of_wellFormed hi, h, lastResponse_answer, viewResult]

theorem viewCommand_of_invalidIndex {d : Data} (hi : i.WellFormed s.uncheckedExposed)
    (h : exec i s = .next (t.answer .invalidIndex d)) :
    viewCommand onOk i s
      = .next { result := some (.error .invalidIndex), block := t.answer .invalidIndex d } := by
  simp only [viewCommand, issue_of_wellFormed hi, h, lastResponse_answer, viewResult]

theorem viewCommand_of_fault {f : Fault} (hi : i.WellFormed s.uncheckedExposed)
    (h : exec i s = .fault f) : viewCommand onOk i s = .fault f := by
  simp only [viewCommand, issue_of_wellFormed hi, h]

/-- An operation whose command does not exist on the block has no result (log 13). -/
theorem viewCommand_of_not_wellFormed (hi : ¬ i.WellFormed s.uncheckedExposed) :
    viewCommand onOk i s = .next { result := none, block := s.answer .illegal 0#256 } := by
  simp only [viewCommand, issue_of_not_wellFormed hi, lastResponse_answer, viewResult]

/-- Two commands that exist and do the same are the same view operation. -/
theorem viewCommand_congr {j : Instr} (hi : i.WellFormed s.uncheckedExposed)
    (hj : j.WellFormed s.uncheckedExposed) (h : exec i s = exec j s) :
    viewCommand onOk i s = viewCommand onOk j s := by
  simp only [viewCommand, issue_of_wellFormed hi, issue_of_wellFormed hj, h]

end ViewCommand

end Sys2Proof.Machine

/-! ## Each operation of the view, on the slot view (R152 to R158) -/

namespace Sys2Proof.Machine

/-- The host finds the block's store in a `CHANS` response (R121, R158). -/
@[simp] theorem storeOfData_channelsData (S : Store) : storeOfData (channelsData S) = S :=
  Store.ext_ch fun k => by rw [storeOfData, ch_tabulate, extractLsb'_channelsData]

section View

variable {T E : Type} (c : Codec T E) (value : T) (idx : Index) (s : State)

/-- The nibble of a response is converted as it is (R68, R156). -/
@[simp] theorem viewDecode_setWidth (v : Nibble) :
    viewDecode c (v.setWidth 256) = viewConvert c v := by
  rw [viewDecode, BitVec.setWidth_setWidth_of_le v (by decide), BitVec.setWidth_eq]

/-- A write at an index puts the value's code into its slot (R154). -/
theorem viewWrite_index :
    viewWrite c value (.index idx) s = .next
      { result := some (.ok ()), block := (slotWrite idx (c.encode value) s).answer .ok 0#256 } :=
  viewCommand_of_ok viewUnit nofun (exec_set idx _ s)

/-- A read at an index converts what its slot holds, and only answers (R156). -/
theorem viewRead_index :
    viewRead c (.index idx) s = .next
      { result := some (viewConvert c (slot s.store idx)),
        block := s.answer .ok ((slot s.store idx).setWidth 256) } := by
  rw [← viewDecode_setWidth]
  exact viewCommand_of_ok (viewDecode c) nofun (exec_get idx s)

/-- `empty()` fills the store with the empty code (R153). -/
theorem viewEmpty_of_emptyCode {code : Nibble} (h : c.emptyCode = some code) :
    viewEmpty c s = some (.next
      { result := some (.ok ()), block := (writeStore (splatStore code) s).answer .ok 0#256 }) := by
  simp only [viewEmpty, h, Option.some.injEq]
  exact viewCommand_of_ok viewUnit nofun (exec_splat code s)

/-- Reading slots one after the other converts each on its own and leaves the store, whichever slots
they are (R158). -/
theorem viewReadAll_eq (order : List Index) :
    ∃ t, viewReadAll c order s
        = .next (order.map (fun idx => some (viewConvert c (slot s.store idx))), t)
      ∧ t.store = s.store := by
  induction order generalizing s with
  | nil => exact ⟨s, rfl, rfl⟩
  | cons idx rest ih =>
    obtain ⟨t, hrest, hstore⟩ := ih (s.answer .ok ((slot s.store idx).setWidth 256))
    refine ⟨t, ?_, hstore⟩
    simp only [viewReadAll, viewRead_index, hrest, answer_store, List.map_cons]

variable {b : Byte}

/-- A raw index below 64 writes as the index it stands for (R154). -/
theorem viewWrite_raw_of_lt (h : b.toNat < 64) :
    viewWrite c value (.raw b) s = viewWrite c value (.index (indexOfByte b)) s :=
  viewCommand_congr viewUnit nofun nofun <| by rw [exec_setc_of_lt _ s h, exec_set]

/-- A raw index below 64 reads as the index it stands for (R156). -/
theorem viewRead_raw_of_lt (h : b.toNat < 64) :
    viewRead c (.raw b) s = viewRead c (.index (indexOfByte b)) s :=
  viewCommand_congr (viewDecode c) nofun nofun <| by rw [exec_getc_of_lt s h, exec_get]

/-- Reading at the index just written gives back the value's code, converted (R161). -/
theorem viewRead_after_viewWrite_index :
    ∃ w r, viewWrite c value (.index idx) s = .next w ∧ w.result = some (.ok ())
      ∧ viewRead c (.index idx) w.block = .next r
      ∧ r.result = some (viewConvert c (c.encode value)) ∧ r.block.store = w.block.store := by
  refine ⟨_, _, viewWrite_index c value idx s, rfl, viewRead_index c idx _, ?_, rfl⟩
  simp only [answer_store, slotWrite_store, slot_scatter, if_true]

end View

end Sys2Proof.Machine

/-! ## The statements on the typed view settled -/

namespace Sys2Proof.Proofs

open Sys2Proof Sys2Proof.Machine

/-- Settles O53: a raw index in range is the index it stands for, in the write and in the read. -/
theorem viewReadsWhatItWrote : Obligations.ViewReadsWhatItWrote := by
  intro T E c value x s hx
  cases x with
  | index idx => exact viewRead_after_viewWrite_index c value idx s
  | raw b =>
    have hb : b.toNat < 64 := hx
    simp only [viewWrite_raw_of_lt c value _ hb, viewRead_raw_of_lt c _ hb]
    exact viewRead_after_viewWrite_index c value (indexOfByte b) s

/-- Settles O54. -/
theorem viewRejectsRawOutOfRange : Obligations.ViewRejectsRawOutOfRange := fun _ _ _ _ _ s hb =>
  ⟨viewCommand_of_invalidIndex _ nofun (exec_setc_of_not_lt _ s hb.not_gt),
    viewCommand_of_invalidIndex _ nofun (exec_getc_of_not_lt s hb.not_gt)⟩

/-- Settles O55: by whether the block has the unchecked commands, then by the range of the byte. -/
theorem viewUncheckedOperations : Obligations.ViewUncheckedOperations := by
  intro T E c value b s
  refine ⟨fun hexp hb => ⟨?_, ?_⟩, fun hexp hb => ⟨?_, ?_⟩, fun hhid => ⟨?_, ?_⟩⟩
  · exact viewCommand_congr _ (fun _ => hexp) nofun (by rw [exec_setu_of_lt _ s hb, exec_set])
  · exact viewCommand_congr _ (fun _ => hexp) nofun (by rw [exec_getu_of_lt s hb, exec_get])
  · exact viewCommand_of_fault _ (fun _ => hexp) (exec_setu_of_not_lt _ s hb.not_gt)
  · exact viewCommand_of_fault _ (fun _ => hexp) (exec_getu_of_not_lt s hb.not_gt)
  · exact viewCommand_of_not_wellFormed _ fun h => Bool.eq_false_iff.mp hhid (h rfl)
  · exact viewCommand_of_not_wellFormed _ fun h => Bool.eq_false_iff.mp hhid (h rfl)

/-- Settles O56: the fill leaves the empty code in every slot. -/
theorem viewEmptyFill : Obligations.ViewEmptyFill := by
  intro T E c s
  constructor
  · intro code hcode
    refine ⟨_, viewEmpty_of_emptyCode c s hcode, rfl,
      fun idx => ⟨_, viewRead_index c idx _, ?_⟩⟩
    simp only [answer_store, writeStore_store, slot_splatStore]
  · intro hnone
    simp only [viewEmpty, hnone]

/-- Settles O57: by `GET`s every read leaves the store to the next; by `CHANS` the host gathers from
the block's own store. -/
theorem viewToArrayIsOrderedAndPure : Obligations.ViewToArrayIsOrderedAndPure := by
  intro T E c s
  refine ⟨viewReadAll_eq c s allIndices, _, viewCommand_of_ok _ nofun (exec_chans s), ?_, rfl⟩
  simp only [storeOfData_channelsData, gather_eq_slot]

end Sys2Proof.Proofs

/-! # Proofs: how a command ends

SUPPORT. Which commands are undefined and with which fault, what the other commands can answer, and what
a step is on a state whose host keeps its duty, each said once; then the statements they settle. -/

/-! ## A step that runs no command (R177, R200) -/

namespace Sys2Proof.Machine

/-- With nothing pending, a step leaves the state (R177, log 4). -/
theorem step_of_nil {s : State} (h : s.input = []) : step s = .next s := by
  simp only [step, fetch_nil h]
  rfl

/-- The reset input is taken and the store is cleared (R200). -/
theorem step_of_reset {s : State} {rest : List HostInput} (h : s.input = .reset :: rest) :
    step s = .next (writeStore Store.zero (s.withInput rest)) := by
  simp only [step, fetch_reset h]
  rfl

end Sys2Proof.Machine

/-! ## The undefined commands (R170, R175) -/

namespace Sys2Proof.Machine

/-- The command is undefined, with this fault: the three unchecked commands, each with a byte of 64 or
more (R175). `exec_eq_fault_iff` ties it to the engine. -/
inductive UndefinedAs : Instr → Fault → Prop
  | idxu {b : Byte} (h : 64 ≤ b.toNat) : UndefinedAs (.idxu b) (.idxuUndefined b)
  | getu {b : Byte} (h : 64 ≤ b.toNat) : UndefinedAs (.getu b) (.getuUndefined b)
  | setu {b : Byte} {v : Nibble} (h : 64 ≤ b.toNat) : UndefinedAs (.setu b v) (.setuUndefined b v)

/-- An undefined command is one whose precondition the host did not keep (R185). -/
theorem UndefinedAs.violatesPrecondition {i : Instr} {f : Fault} (h : UndefinedAs i f) :
    violatesPrecondition i = true := by
  cases h with
  | idxu h | getu h | setu h => exact decide_eq_true h

/-- Everything a command can do: be undefined; complete with one `OK`; or answer `INVALID_INDEX` with no
data and do nothing else (R170, R171, R175). -/
theorem exec_ends (i : Instr) (s : State) :
    (∃ f, UndefinedAs i f ∧ exec i s = .fault f)
    ∨ (∃ t data, exec i s = .next t ∧ AnsweredOnce s t .ok data)
    ∨ exec i s = .next (s.answer .invalidIndex 0#256) := by
  cases i with
  | default => exact .inr (.inl ⟨_, _, exec_default s, answeredOnce_answer_writeStore ..⟩)
  | splat v => exact .inr (.inl ⟨_, _, exec_splat v s, answeredOnce_answer_writeStore ..⟩)
  | get idx => exact .inr (.inl ⟨_, _, exec_get idx s, answeredOnce_answer ..⟩)
  | set idx v => exact .inr (.inl ⟨_, _, exec_set idx v s, answeredOnce_answer_slotWrite ..⟩)
  | getc b =>
    by_cases h : b.toNat < 64
    · exact .inr (.inl ⟨_, _, exec_getc_of_lt s h, answeredOnce_answer ..⟩)
    · exact .inr (.inr (exec_getc_of_not_lt s h))
  | setc b v =>
    by_cases h : b.toNat < 64
    · exact .inr (.inl ⟨_, _, exec_setc_of_lt v s h, answeredOnce_answer_slotWrite ..⟩)
    · exact .inr (.inr (exec_setc_of_not_lt v s h))
  | getu b =>
    by_cases h : b.toNat < 64
    · exact .inr (.inl ⟨_, _, exec_getu_of_lt s h, answeredOnce_answer ..⟩)
    · exact .inl ⟨_, .getu (Nat.not_lt.mp h), exec_getu_of_not_lt s h⟩
  | setu b v =>
    by_cases h : b.toNat < 64
    · exact .inr (.inl ⟨_, _, exec_setu_of_lt v s h, answeredOnce_answer_slotWrite ..⟩)
    · exact .inl ⟨_, .setu (Nat.not_lt.mp h), exec_setu_of_not_lt v s h⟩
  | chans => exact .inr (.inl ⟨_, _, exec_chans s, answeredOnce_answer ..⟩)
  | idxtry b =>
    by_cases h : b.toNat < 64
    · exact .inr (.inl ⟨_, _, exec_idxtry_of_lt s h, answeredOnce_answer ..⟩)
    · exact .inr (.inr (exec_idxtry_of_not_lt s h))
  | idxu b =>
    by_cases h : b.toNat < 64
    · exact .inr (.inl ⟨_, _, exec_idxu_of_lt s h, answeredOnce_answer ..⟩)
    · exact .inl ⟨_, .idxu (Nat.not_lt.mp h), exec_idxu_of_not_lt s h⟩
  | idxbyte idx => exact .inr (.inl ⟨_, _, exec_idxbyte idx s, answeredOnce_answer ..⟩)
  | idxvalid b => exact .inr (.inl ⟨_, _, exec_idxvalid b s, answeredOnce_answer ..⟩)

/-- A command faults, in any state, exactly when it is undefined (R175). -/
theorem exec_eq_fault_iff {i : Instr} {s : State} {f : Fault} :
    exec i s = .fault f ↔ UndefinedAs i f := by
  constructor
  · intro hf
    rcases exec_ends i s with ⟨g, hg, h⟩ | ⟨t, data, h, -⟩ | h
    · obtain rfl : g = f := Host.Outcome.fault.inj (h.symm.trans hf)
      exact hg
    · cases h.symm.trans hf
    · cases h.symm.trans hf
  · intro h
    cases h with
    | idxu h => exact exec_idxu_of_not_lt s h.not_gt
    | getu h => exact exec_getu_of_not_lt s h.not_gt
    | setu h => exact exec_setu_of_not_lt _ s h.not_gt

/-- A step faults exactly when the next input is a word that decodes to an undefined command: taking an
input, the reset and an illegal word never fault (R174, R175, R200). -/
theorem step_eq_fault_iff {s : State} {f : Fault} :
    step s = .fault f
      ↔ ∃ cw rest i, s.input = .command cw :: rest ∧ decode s.uncheckedExposed cw = .ok i
          ∧ UndefinedAs i f := by
  constructor
  · intro hf
    rcases step_cases s with ⟨-, hs⟩ | ⟨rest, -, hs⟩ | ⟨cw, rest, e, -, -, hs⟩
      | ⟨cw, rest, i, hin, hd, hs⟩
    · cases hs.symm.trans hf
    · cases hs.symm.trans hf
    · cases hs.symm.trans hf
    · exact ⟨cw, rest, i, hin, hd, exec_eq_fault_iff.mp (hs.symm.trans hf)⟩
  · rintro ⟨cw, rest, i, hin, hd, hi⟩
    exact (step_of_decode hin hd).trans (exec_eq_fault_iff.mpr hi)

end Sys2Proof.Machine

/-! ## The statements on how a command ends settled -/

namespace Sys2Proof.Proofs

open Sys2Proof Sys2Proof.Machine

/-- Settles O12: `ILLEGAL` is the decoder's verdict, the other three are the command's own ends. -/
theorem commandEndsInOneOfFourWays : Obligations.CommandEndsInOneOfFourWays := by
  intro s w rest hin
  rcases hd : decode s.uncheckedExposed w with e | i
  · exact .inr ⟨_, _, _, step_of_decode_error hin hd, answeredOnce_answer ..,
      .inr ⟨.inr rfl, rfl, rfl⟩⟩
  · rw [step_of_decode hin hd]
    rcases exec_ends i (s.withInput rest) with ⟨f, -, h⟩ | ⟨t, data, h, hanswered⟩ | h
    · exact .inl ⟨f, h⟩
    · exact .inr ⟨t, _, data, h, hanswered, .inl rfl⟩
    · exact .inr ⟨_, _, _, h, answeredOnce_answer .., .inr ⟨.inl rfl, rfl, rfl⟩⟩

/-- Settles O13: the three undefined commands are the statement's three cases. -/
theorem faultExactlyOnUncheckedOutOfRange : Obligations.FaultExactlyOnUncheckedOutOfRange := by
  refine ⟨fun s f => step_eq_fault_iff.trans ⟨?_, ?_⟩, fun s f n h => run_succ_of_fault h n⟩
  · rintro ⟨w, rest, i, hin, hd, hi⟩
    cases hi with
    | idxu hb => exact ⟨w, rest, _, hin, hb, .inl ⟨hd, rfl⟩⟩
    | getu hb => exact ⟨w, rest, _, hin, hb, .inr (.inl ⟨hd, rfl⟩)⟩
    | setu hb => exact ⟨w, rest, _, hin, hb, .inr (.inr ⟨_, hd, rfl⟩)⟩
  · rintro ⟨w, rest, b, hin, hb, ⟨hd, rfl⟩ | ⟨hd, rfl⟩ | ⟨v, hd, rfl⟩⟩
    · exact ⟨w, rest, _, hin, hd, .idxu hb⟩
    · exact ⟨w, rest, _, hin, hd, .getu hb⟩
    · exact ⟨w, rest, _, hin, hd, .setu hb⟩

/-- Settles O11. -/
theorem idleStepChangesNothing : Obligations.IdleStepChangesNothing := fun _ => step_of_nil

end Sys2Proof.Proofs

/-! ## A host that keeps its duty (R185, R203, R204) -/

namespace Sys2Proof.Machine

/-- Every step of such a host goes on: a fault would be a violated precondition (R185). -/
theorem exists_step_of_safeInput {s : State} (hsafe : SafeInput s) : ∃ t, step s = .next t := by
  rcases hstep : step s with t | f | r
  · exact ⟨t, rfl⟩
  · obtain ⟨cw, rest, i, hin, hd, hi⟩ := step_eq_fault_iff.mp hstep
    have hword : SafeWord s.uncheckedExposed cw := hsafe cw (hin ▸ List.mem_cons_self)
    cases (hword i hd).symm.trans hi.violatesPrecondition
  · exact absurd hstep (Proofs.stepNeverRefuses s r)

/-- The host's duty for the inputs that are left is part of its duty before. -/
theorem safeInput_of_step {s t : State} (hsafe : SafeInput s) (h : step s = .next t) :
    SafeInput t := by
  obtain ⟨hexp, hinput, -⟩ := step_next_frame h
  intro cw hcw
  rw [hexp]
  exact hsafe cw (List.mem_of_mem_tail (hinput ▸ hcw))

/-- A word taken is answered exactly once, whichever way the command ends (R60, R170). -/
theorem length_responses_of_command {s t : State} {cw : CommandWord} {rest : List HostInput}
    (hin : s.input = .command cw :: rest) (h : step s = .next t) :
    t.responses.length = s.responses.length + 1 := by
  rcases Proofs.commandEndsInOneOfFourWays s cw rest hin with
    ⟨f, hf⟩ | ⟨u, status, data, hu, ⟨-, -, hresp⟩, -⟩
  · cases hf.symm.trans h
  · obtain rfl : u = t := Host.Outcome.next.inj (hu.symm.trans h)
    rw [hresp]
    exact List.length_append

/-- The responses given and the words still to be answered are together the same before and after a
step: a word moves from the second count to the first, and a reset is in neither (R60, R185). -/
theorem length_responses_add_commandCount {s t : State} (h : step s = .next t) :
    t.responses.length + commandCount t.input
      = s.responses.length + commandCount s.input := by
  rcases hin : s.input with _ | ⟨cw | _, rest⟩
  · obtain rfl := Host.Outcome.next.inj ((step_of_nil hin).symm.trans h)
    rw [hin]
  · obtain ⟨-, hinput, -⟩ := step_next_frame h
    rw [hinput, hin, List.tail_cons, length_responses_of_command hin h, commandCount]
    omega
  · obtain rfl := Host.Outcome.next.inj ((step_of_reset hin).symm.trans h)
    rfl

/-- The run of a host that keeps its duty ends with nothing left and every word answered (R203, R204). -/
theorem runAll_of_safeInput {s : State} (hsafe : SafeInput s) :
    ∃ t, runAll s = .next t ∧ t.input = []
      ∧ t.responses.length = s.responses.length + commandCount s.input := by
  induction hin : s.input generalizing s with
  | nil =>
    refine ⟨s, ?_, hin, rfl⟩
    rw [runAll, hin]
    exact run_zero s
  | cons x rest ih =>
    obtain ⟨u, hstep⟩ := exists_step_of_safeInput hsafe
    obtain ⟨-, hinput, -⟩ := step_next_frame hstep
    have hrest : u.input = rest := by rw [hinput, hin, List.tail_cons]
    obtain ⟨t, hrun, hnil, hlen⟩ := ih (safeInput_of_step hsafe hstep) hrest
    refine ⟨t, (runAll_of_step hin hrest hstep).trans hrun, hnil, ?_⟩
    have hcount := length_responses_add_commandCount hstep
    rw [hrest, hin] at hcount
    exact hlen.trans hcount

end Sys2Proof.Machine

/-! ## The statement on the whole run settled -/

namespace Sys2Proof.Proofs

open Sys2Proof Sys2Proof.Machine

/-- Settles O18, by the induction over the inputs in `runAll_of_safeInput`. -/
theorem safeInputRunsToTheEnd : Obligations.SafeInputRunsToTheEnd := fun _ => runAll_of_safeInput

end Sys2Proof.Proofs

/-! # Proofs: reset

SUPPORT. What the host reads from the default store; then the statements on the reset input and on the
state after it. -/

/-! ## The default store as `CHANS` answers it (R111, R121) -/

namespace Sys2Proof.Machine

@[simp] theorem channelsData_zero : channelsData Store.zero = 0#256 := by
  simp only [channelsData, Store.zero, BitVec.zero_append_zero]

theorem exec_chans_of_zero {s : State} (h : s.store = Store.zero) :
    exec .chans s = .next (s.answer .ok 0#256) := by
  rw [exec_chans, h, channelsData_zero]

end Sys2Proof.Machine

/-! ## The statements on reset settled -/

namespace Sys2Proof.Proofs

open Sys2Proof Sys2Proof.Machine

/-- Settles O10: the step clears the store of the state whose input is taken, and nothing else. -/
theorem resetInputClearsStore : Obligations.ResetInputClearsStore := fun _ _ h =>
  ⟨_, step_of_reset h, ch_zero, rfl, rfl, rfl⟩

/-- Settles O50: each clause is the fact about the default store, which reset leaves (R37, R200). -/
theorem resetStateReadsZero : Obligations.ResetStateReadsZero :=
  ⟨ch_zero, fun idx => exec_get_of_slot (v := 0#4) (slot_zero idx), exec_chans_of_zero rfl,
    eq_zero_iff_or_channels.mp rfl, _, exec_default State.reset, rfl⟩

end Sys2Proof.Proofs
